-- ==== Sys2Proof/Word.lean ====
section
/-! DEFINITION. The word types of the block: a byte of the stream, a TIME value, a query command word. -/

namespace Sys2Proof

/-- A byte, 0..255, bit 0 least significant (00_scope R7). -/
abbrev Byte := BitVec 8

/-- A TIME value, a number of W_TS bits. W_TS is a parameter (00_scope R6), so the width is no part of the type:
the receive port takes the low W_TS bits of what is driven on it (log 4). -/
abbrev Time := Nat

/-- A query command word (30_encoding R72). -/
abbrev QueryWord := BitVec 32

end Sys2Proof
end

