-- ==== Sys2Proof/Machine/Checksum.lean ====
section
/-! DEFINITION. The checksum-8 additive validator (40_checksum). -/

namespace Sys2Proof.Machine

/-- `chk8(s)`: the sum of all bytes modulo 256 (40_checksum R90). Adding on the right end or the left
end is the same; the recursion follows the list. -/
def chk8 : List Byte → Byte
  | [] => 0
  | b :: s => b + chk8 s

end Sys2Proof.Machine
end

