-- ==== Sys2Proof/Config.lean ====
section
/-! DEFINITION. The parameters of the block (00_scope R6): what the source fixes, and the defaults of what a model takes as an argument. -/

namespace Sys2Proof.Config

/-- FRAME_LEN and RXBUF_CAP: 9 bytes. -/
def frameLen : Nat := 9

/-- MARK0. -/
def mark0 : Byte := 0x07

/-- MARK1. -/
def mark1 : Byte := 0x05

/-- CMD_MARK. -/
def cmdMark : Byte := 0x03

/-- CMD_PAYLOAD_LEN. -/
def cmdPayloadLen : Nat := 3

/-- HIST_CAP by default; the machine's own value is the field `histCap` of its state (log 3). -/
def histCapDefault : Nat := 1000

/-- W_TS by default; the machine's own value is the field `wTs` of its state (log 4). -/
def wTsDefault : Nat := 64

/-- The largest HIST_CAP a block may have, so that HCNT fits 16 bits (D32). -/
def histCapMax : Nat := 65535

/-- P_DIV: the divisor of the pressure exponent. -/
def pDiv : Nat := 4000

/-- V_DIV: the divisor of the version byte. -/
def vDiv : Nat := 20

/-- PRESSURE in a finite-precision NUM, as the bits on the response port. "A configuration function of which it
assumes nothing but that it depends on (u, m) alone" (42_decode R119): the code of the unit and M are its
arguments, and it has no body (log 5). -/
opaque portPressure : BitVec 2 → BitVec 16 → Nat

/-- MEAN in a finite-precision NUM, as the bits on the response port: "a configuration function of the list of
(u, m) pairs in newest-first order" (43_history R143). It has no body (log 5). -/
opaque portMean : List (BitVec 2 × BitVec 16) → Nat

/-- CMD_TABLE: the payloads of the six helper commands (45_command R162). The source gives no values
(D27), so no value of this type is fixed anywhere: whoever expands a helper command brings one (log 6). -/
structure CmdTable where
  /-- `set_unit[0]`, mbar -/
  setMbar : Byte × Byte × Byte
  /-- `set_unit[1]`, Torr -/
  setTorr : Byte × Byte × Byte
  /-- `set_unit[2]`, Pa -/
  setPa : Byte × Byte × Byte
  /-- `degas[1]`, enable -/
  degasOn : Byte × Byte × Byte
  /-- `degas[0]`, disable -/
  degasOff : Byte × Byte × Byte
  /-- `save_unit` -/
  saveUnit : Byte × Byte × Byte
  deriving DecidableEq, Repr

end Sys2Proof.Config
end

