-- ==== Sys2Proof/Syntax.lean ====
section
/-! DEFINITION. The operations of the block and the words its ports take: one constructor of `Instr` per row of spec/opcode_table.json. -/

namespace Sys2Proof

/-- One operation (00_scope R2), or one wire format of the opcode table. -/
inductive Instr where
  /-- RXB: receive byte `b` with TIME value `t` (41_framesync R95). -/
  | rxb (b : Byte) (t : Time)
  /-- AVG: mean over the most recent `min(n, HCNT)` samples (43_history R138). -/
  | avg (n : BitVec 16)
  /-- CLR: clear the history (43_history R140). -/
  | clr
  /-- SNAP: the current reading (44_query R150). -/
  | snap
  /-- VAR: the session's variant (44_query R151). -/
  | var
  /-- VER: the sticky firmware version (44_query R152). -/
  | ver
  /-- STAT: the status word and the fill count (44_query R153). -/
  | stat
  /-- ENC: build a command frame (45_command R160). -/
  | enc (len : BitVec 4) (p0 p1 p2 : Byte)
  /-- RST: start a session (70_reset_and_hazards R195). -/
  | rst
  /-- FRAME: a telemetry frame, received whole (30_encoding R61; log 8). Its two markers are fixed. -/
  | frame (status error pHi pLo version type chk : Byte) (t : Time)
  /-- CMDFRAME: a command frame, produced (30_encoding R70; log 9). Its marker is fixed. -/
  | cmdframe (p0 p1 p2 chk : Byte)
  deriving DecidableEq, Repr

/-- What is offered to the block at its ports. -/
inductive PortWord where
  /-- a receive-port word and its TIME side band (30_encoding R71) -/
  | rx (b : Byte) (t : Time)
  /-- a query command word (30_encoding R72) -/
  | query (w : QueryWord)
  /-- the nine bytes of a telemetry frame offered back to back on the receive port, byte 0 in the most
  significant place as the opcode table prints it (30_encoding R61, R85 RXFRAME; log 8) -/
  | wireIn (f : BitVec 72) (t : Time)
  /-- the image of a command frame the block is to produce, byte 0 in the most significant place
  (30_encoding R70; log 9) -/
  | wireOut (c : BitVec 40)
  /-- the hardware reset input is asserted (70_reset_and_hazards R195) -/
  | resetInput
  deriving DecidableEq, Repr

/-- The mnemonic of an operation's row in spec/opcode_table.json. -/
def Instr.mnemonic : Instr → String
  | .rxb _ _ => "RXB"
  | .avg _ => "AVG"
  | .clr => "CLR"
  | .snap => "SNAP"
  | .var => "VAR"
  | .ver => "VER"
  | .stat => "STAT"
  | .enc _ _ _ _ => "ENC"
  | .rst => "RST"
  | .frame _ _ _ _ _ _ _ _ => "FRAME"
  | .cmdframe _ _ _ _ => "CMDFRAME"

end Sys2Proof
end

