-- ==== Sys2Proof/Machine/State.lean ====
section
/-! DEFINITION. The state of the block (10_state), its response records (30_encoding R79 to R83), the reasons a step can stop, and the state after reset. -/

namespace Sys2Proof.Machine

/-! ### Enumerations (30_encoding R69) -/

/-- pressure_unit: codes 0, 1, 2. "3 is never committed" (10_state R16), so it is no value of this type (log 10). -/
inductive PressureUnit where
  | mbar
  | torr
  | pa
  deriving DecidableEq, Repr

/-- emission_state: codes 0..3. -/
inductive Emission where
  | off
  /-- 25 µA -/
  | low
  /-- 5 mA -/
  | high
  | degas
  deriving DecidableEq, Repr

/-- VARIANT: 0 NONE, 1 ITR90, 2 ITR200. "The value 3 is never written" (10_state R14; log 10). -/
inductive Variant where
  | none
  | itr90
  | itr200
  deriving DecidableEq, Repr

/-- error_code of the ITR90 strategy: codes 0, 5, 8, 9 (log 10). -/
inductive ErrCode where
  | noError
  | piraniAdjustmentPoor
  | baError
  | piraniError
  deriving DecidableEq, Repr

/-- Why a candidate is no frame: 1 MARK0, 2 MARK1, 3 CHECKSUM (41_framesync R98). -/
inductive Cause where
  | mark0
  | mark1
  | checksum
  deriving DecidableEq, Repr

/-- The field a DecodeError names: 1 UNIT, 2 ERRCODE, 3 TYPE (42_decode R123). -/
inductive DecodeField where
  | unit
  | errcode
  | type
  deriving DecidableEq, Repr

/-! ### The history -/

/-- A history cell: one whole sample (10_state R22). -/
structure Sample where
  ts : Time
  unit : PressureUnit
  m : BitVec 16
  deriving DecidableEq, Repr

/-- The history cells something has written, by cell index, indices strictly rising. An unlisted cell has
no value (10_state R29: "unspecified; unreachable"; log 7). -/
abbrev Memory := List (Nat × Sample)

/-! ### Exact pressures -/

/-- An exact number: the sum of `q * 10^(r/4000)` over its terms `(r, q)`, the `r` below 4000 and strictly
rising, no `q` zero. By 42_decode R118 and R119 (a) every pressure and every mean is one (log 5). -/
structure ExactNum where
  terms : List (Nat × Rat)
  deriving DecidableEq, Repr

/-- The parameter NUM: the format of PRESSURE and MEAN on the response port, "exact real number by default"
(00_scope R6), or any one finite-precision format (43_history R143; log 5). -/
inductive NumFormat where
  | exact
  | finite
  deriving DecidableEq, Repr

/-- A number of format NUM on the response port. -/
inductive PortNumber where
  /-- the exact real number -/
  | exact (x : ExactNum)
  /-- the bits of a finite-precision number -/
  | finite (bits : Nat)
  deriving DecidableEq, Repr

/-! ### Exceptions and responses -/

/-- The five exceptions (60_exceptions R170). -/
inductive Exc where
  /-- code 1, raised by RXB for a candidate that fails validation -/
  | framing (cause : Cause)
  /-- code 2, raised by RXB for a validated frame the decoder rejects -/
  | decode (field : DecodeField)
  /-- code 3, raised by AVG and SNAP -/
  | noData
  /-- code 4, raised by ENC -/
  | commandConstruction
  /-- code 5, raised by a query word that matches no row -/
  | illegalOperation
  deriving DecidableEq, Repr

/-- EV and INFO of an RXB response (30_encoding R80). -/
inductive RxEvent where
  | none
  | framing (cause : Cause)
  | decode (field : DecodeField)
  /-- `mis`: the frame's type byte mismatched the locked variant -/
  | reading (mis : Bool)
  deriving DecidableEq, Repr

/-- The fields of a SNAP response (30_encoding R82). -/
structure Snapshot where
  unit : PressureUnit
  m : BitVec 16
  pressure : PortNumber
  emis : Emission
  tog : Bool
  x90 : Bool
  err : ErrCode
  adj : Bool
  variant : Variant
  fwver : Byte
  ts : Time
  deriving DecidableEq, Repr

/-- A response record (30_encoding R79 to R83). Every record but `rx` and `error` has ST = 0; the record of
an error has no field but ST (R79: "leave it out"). -/
inductive Response where
  /-- RXB, to the receive agent: EV and INFO, NDISC -/
  | rx (ev : RxEvent) (ndisc : Nat)
  /-- a query operation that raised an exception -/
  | error (e : Exc)
  | avg (mean : PortNumber) (used : BitVec 16)
  | clr
  | snap (reading : Snapshot)
  | var (variant : Variant) (vlock : Bool)
  | ver (fwvalid : Bool) (fwver : Byte)
  | stat (status : BitVec 16) (hcnt : BitVec 16)
  /-- FRAME, its first byte first on the wire -/
  | enc (frame : List Byte)
  | rst
  deriving DecidableEq, Repr

/-! ### Reasons to stop -/

/-- A step that stops with a fault. -/
inductive Fault where
  /-- AVG reads a history cell nothing has written. Raised by `execAvg` only, in states no run from reset
  reaches (`State.Inv` excludes them). SAFE: the block has no such behaviour (log 7). -/
  | historyCellUnwritten
  deriving DecidableEq, Repr

/-- A step that has no meaning. -/
inductive Refusal where
  /-- An instruction the model does not know yet. Raised by no arm of `exec` in this model. SAFE. -/
  | notModelled (mnemonic : String)
  /-- An image offered at the row FRAME that does not begin with the two markers: it is no instruction, and
  no operation of the spec takes nine bytes at once. Raised by `refuseWord`. SAFE (log 8). -/
  | notTelemetryFrame
  /-- An image offered at the row CMDFRAME that does not begin with the command marker, or whose last byte
  is not the checksum of its payload: the block never produces it (45_command R163). Raised by `refuseWord`
  and `execCmdframe`. SAFE (log 9). -/
  | notCommandFrame
  deriving DecidableEq, Repr

/-! ### The state -/

/-- The whole state of the block (10_state R10), three parameters of the block, and the two
fields of the model's own that its ports need. -/
structure State where
  /-- RXBUF, oldest byte first (R11) -/
  rxbuf : List Byte
  /-- SYNC: false unsynchronized, true synchronized (R12) -/
  sync : Bool
  /-- VARIANT (R14) -/
  variant : Variant
  /-- VLOCK (R15) -/
  vlock : Bool
  /-- RVALID (R16) -/
  rvalid : Bool
  /-- R_UNIT (R16) -/
  rUnit : PressureUnit
  /-- R_M (R16) -/
  rM : BitVec 16
  /-- R_EMIS (R16) -/
  rEmis : Emission
  /-- R_TOG (R16) -/
  rTog : Bool
  /-- R_X90 (R16) -/
  rX90 : Bool
  /-- R_ERR (R16) -/
  rErr : ErrCode
  /-- R_ADJ (R16) -/
  rAdj : Bool
  /-- R_TS (R16) -/
  rTs : Time
  /-- FWVALID (R18) -/
  fwvalid : Bool
  /-- FWVER (R18) -/
  fwver : Byte
  /-- FERR (R19) -/
  ferr : Bool
  /-- DERR (R19) -/
  derr : Bool
  /-- DFIELD (R19): 0, or the code of the most recent DecodeError's field -/
  dfield : BitVec 2
  /-- TMIS (R19) -/
  tmis : Bool
  /-- HIST (R21) -/
  hist : Memory
  /-- HWR (R23) -/
  hwr : Nat
  /-- HCNT (R23) -/
  hcnt : Nat
  /-- the parameter HIST_CAP; no operation writes it (log 3) -/
  histCap : Nat
  /-- the parameter W_TS; no operation writes it (log 4) -/
  wTs : Nat
  /-- the parameter NUM; no operation writes it (log 5) -/
  num : NumFormat
  /-- the words offered to the ports and not yet accepted, in the total order of 20_memory R48 (log 1) -/
  pending : List PortWord
  /-- the response records of the latest step, one per operation it performed (log 2) -/
  resp : List Response
  deriving DecidableEq, Repr

/-- The state after reset (10_state R29), with the default parameters, no history cell listed and nothing
offered. -/
def State.reset : State where
  rxbuf := []
  sync := false
  variant := .none
  vlock := false
  rvalid := false
  rUnit := .mbar
  rM := 0
  rEmis := .off
  rTog := false
  rX90 := false
  rErr := .noError
  rAdj := false
  rTs := 0
  fwvalid := false
  fwver := 0
  ferr := false
  derr := false
  dfield := 0
  tmis := false
  hist := []
  hwr := 0
  hcnt := 0
  histCap := Config.histCapDefault
  wTs := Config.wTsDefault
  num := .exact
  pending := []
  resp := []

end Sys2Proof.Machine
end

