-- ==== Sys2Proof/Machine/Operands.lean ====
section
/-! DEFINITION. The fields of a telemetry frame, the codes of the enumerations and the lookup tables (30_encoding R61 to R69). -/

namespace Sys2Proof.Machine

/-! ### Codes (30_encoding R69, R80; 10_state R14, R16; 60_exceptions R170) -/

/-- The code of R_UNIT and of a cell's UNIT. -/
def PressureUnit.code : PressureUnit → BitVec 2
  | .mbar => 0
  | .torr => 1
  | .pa => 2

/-- The code of R_EMIS. -/
def Emission.code : Emission → BitVec 2
  | .off => 0
  | .low => 1
  | .high => 2
  | .degas => 3

/-- The code of VARIANT. -/
def Variant.code : Variant → BitVec 2
  | .none => 0
  | .itr90 => 1
  | .itr200 => 2

/-- The code of R_ERR. -/
def ErrCode.code : ErrCode → BitVec 4
  | .noError => 0
  | .piraniAdjustmentPoor => 5
  | .baError => 8
  | .piraniError => 9

/-- The code of a framing cause, INFO of a FRAMING event. -/
def Cause.code : Cause → BitVec 2
  | .mark0 => 1
  | .mark1 => 2
  | .checksum => 3

/-- The code of a decode field, INFO of a DECODE event and the value of DFIELD. -/
def DecodeField.code : DecodeField → BitVec 2
  | .unit => 1
  | .errcode => 2
  | .type => 3

/-- The code of an exception (60_exceptions R170), ST of a caller's response. -/
def Exc.code : Exc → BitVec 4
  | .framing _ => 1
  | .decode _ => 2
  | .noData => 3
  | .commandConstruction => 4
  | .illegalOperation => 5

/-- EV of an RXB response. -/
def RxEvent.ev : RxEvent → BitVec 2
  | .none => 0
  | .framing _ => 1
  | .decode _ => 2
  | .reading _ => 3

/-- INFO of an RXB response. -/
def RxEvent.info : RxEvent → BitVec 2
  | .none => 0
  | .framing c => c.code
  | .decode f => f.code
  | .reading mis => if mis then 1 else 0

/-- ST of a response; the RXB record has none (30_encoding R79, R80). -/
def Response.st : Response → Option (BitVec 4)
  | .rx _ _ => none
  | .error e => some e.code
  | .avg _ _ => some 0
  | .clr => some 0
  | .snap _ => some 0
  | .var _ _ => some 0
  | .ver _ _ => some 0
  | .stat _ _ => some 0
  | .enc _ => some 0
  | .rst => some 0

/-! ### The bytes of a candidate -/

/-- The byte at frame index `i` (20_memory R41). -/
def byteAt (f : List Byte) (i : Nat) : Byte := f.getD i 0

/-- The bytes at frame indices 1 to 7, both included, which the checksum covers (40_checksum R92). -/
def summed (f : List Byte) : List Byte := (f.drop 1).take 7

/-! ### Field assembly (30_encoding R68) -/

/-- emission_state, `s[1:0]`. -/
def emisOf (s : Byte) : Emission :=
  match (s.extractLsb' 0 2).toNat with
  | 0 => .off
  | 1 => .low
  | 2 => .high
  | _ => .degas

/-- currently_adjusting, `s[2]`. -/
def adjOf (s : Byte) : Bool := s.getLsbD 2

/-- toggle_bit, `s[3]`. -/
def togOf (s : Byte) : Bool := s.getLsbD 3

/-- pressure_unit, `s[5:4]`; 3 is outside the unit table (42_decode R113). -/
def unitOf (s : Byte) : Option PressureUnit :=
  match (s.extractLsb' 4 2).toNat with
  | 0 => some .mbar
  | 1 => some .torr
  | 2 => some .pa
  | _ => none

/-- error_code, `e[7:4]`, looked up in ERR_TABLE_ITR90; the other codes are outside it (42_decode R114, R115). -/
def errOf (e : Byte) : Option ErrCode :=
  match (e.extractLsb' 4 4).toNat with
  | 0 => some .noError
  | 5 => some .piraniAdjustmentPoor
  | 8 => some .baError
  | 9 => some .piraniError
  | _ => none

/-- The pressure magnitude, big-endian: `{F[4], F[5]}` (30_encoding R64). -/
def magnitudeOf (hi lo : Byte) : BitVec 16 := hi ++ lo

/-- TYPE_TABLE: 10 ITR90, 12 ITR200, every other value unknown, which is NONE (30_encoding R66). -/
def typeTable (tb : Byte) : Variant :=
  if tb = 10 then .itr90 else if tb = 12 then .itr200 else .none

end Sys2Proof.Machine
end

