-- ==== Sys2Proof/Machine/Ops.lean ====
section
/-! DEFINITION. The named operations every meaning is built from: the history cells, responding, and taking an exception. -/

namespace Sys2Proof.Machine

/-! ### The history cells -/

/-- `MemRead(i, 1)`: the sample of cell `i`; a cell nothing has written has none (20_memory R40; log 7). -/
def Memory.read : Memory → Nat → Option Sample
  | [], _ => none
  | (j, x) :: m, i => if i = j then some x else Memory.read m i

/-- `MemWrite(i, 1, x)`: cell `i` holds `x`, the list stays in rising order (20_memory R40). -/
def Memory.write : Memory → Nat → Sample → Memory
  | [], i, x => [(i, x)]
  | (j, y) :: m, i, x =>
    if i < j then (i, x) :: (j, y) :: m
    else if i = j then (i, x) :: m
    else (j, y) :: Memory.write m i x

/-- The canonical form: indices strictly rising. An unlisted cell has no value, so no entry can equal it. -/
def Memory.wf : Memory → Bool
  | [] => true
  | [_] => true
  | (i, _) :: (j, y) :: m => decide (i < j) && Memory.wf ((j, y) :: m)

/-- `k mod HIST_CAP` for a possibly negative `k`, a result in 0..HIST_CAP−1 (10_state R24). -/
def modCap (s : State) (k : Int) : Nat := (k % (s.histCap : Int)).toNat

/-- The cell of the `j`-th sample of `hist()`, oldest first: `(HWR − HCNT + j) mod HIST_CAP` (10_state R24). -/
def oldestCell (s : State) (j : Nat) : Nat := modCap s (s.hwr - s.hcnt + j)

/-- The cell AVG reads at its `i`-th turn, newest first: `(HWR − 1 − i) mod HIST_CAP` (43_history R138). -/
def newestCell (s : State) (i : Nat) : Nat := modCap s (s.hwr - 1 - i)

/-- `hist()`, oldest sample first (10_state R24). -/
def histSeq (s : State) : List (Option Sample) :=
  (List.range s.hcnt).map fun j => s.hist.read (oldestCell s j)

/-- APPEND(x): write the cell at HWR, move HWR on, count up to the capacity (43_history R136; the index is
taken modulo HIST_CAP as 43_history R135 says, which changes nothing while HWR < HIST_CAP). -/
def append (x : Sample) (s : State) : State :=
  { s with
    hist := s.hist.write (modCap s s.hwr) x
    hwr := modCap s (s.hwr + 1)
    hcnt := if s.hcnt < s.histCap then s.hcnt + 1 else s.hcnt }

/-! ### The TIME input -/

/-- The TIME value the receive port takes: its W_TS bits (00_scope R6, 60_exceptions R189; log 4). -/
def timeInput (s : State) (t : Time) : Time := t % 2 ^ s.wTs

/-! ### Responding -/

/-- The step gives these response records (30_encoding R79). -/
def respond (rs : List Response) (s : State) : State := { s with resp := rs }

/-! ### Taking an exception -/

/-- The state change of an exception, all of it (60_exceptions R171 to R177): nothing is saved, no mode
changes, no control is transferred. FramingError drops one byte, `SYNC <- 0`, `FERR <- 1` (41_framesync R98);
DecodeError sets DERR and DFIELD (42_decode R123); the other three change no state. There is no return from
an exception (60_exceptions R178). -/
def takeException (e : Exc) (s : State) : State :=
  match e with
  | .framing _ => { s with rxbuf := s.rxbuf.drop 1, sync := false, ferr := true }
  | .decode f => { s with derr := true, dfield := f.code }
  | .noData => s
  | .commandConstruction => s
  | .illegalOperation => s

/-- An exception a query operation raises: its state change, and the response whose ST is its code
(60_exceptions R173 to R176). -/
def raiseToCaller (e : Exc) (s : State) : State := respond [.error e] (takeException e s)

end Sys2Proof.Machine
end

