-- ==== Sys2Proof/Machine/Command.lean ====
section
/-! DEFINITION. The command encoder: ENC (45_command), and the command frame produced. -/

namespace Sys2Proof.Machine

/-- The command frame of a payload: marker, payload, checksum of the payload (30_encoding R70). -/
def commandFrame (p0 p1 p2 : Byte) : List Byte := [Config.cmdMark, p0, p1, p2, chk8 [p0, p1, p2]]

/-- ENC len, p0, p1, p2: the command frame, CommandConstructionError when the declared length is not 3
(45_command R160). -/
def execEnc (len : BitVec 4) (p0 p1 p2 : Byte) (s : State) : Host.Outcome State Fault Refusal :=
  if len.toNat ≠ Config.cmdPayloadLen then .next (raiseToCaller .commandConstruction s)
  else .next (respond [.enc (commandFrame p0 p1 p2)] s)

/-- CMDFRAME: the block produces this command frame, as ENC with LEN = 3 does; an image whose last byte is
not the checksum of its payload is no command frame (30_encoding R70, 45_command R163; log 9). -/
def execCmdframe (p0 p1 p2 chk : Byte) (s : State) : Host.Outcome State Fault Refusal :=
  if chk = chk8 [p0, p1, p2] then .next (respond [.enc (commandFrame p0 p1 p2)] s)
  else .refused .notCommandFrame

end Sys2Proof.Machine
end

