-- ==== Sys2Proof/Machine/BitfieldDecoder.lean ====
section
/-! DEFINITION. The bitfield decoder and the variant resolver: DECODE and COMMIT (42_decode). -/

namespace Sys2Proof.Machine

/-- What COMMIT is given (42_decode R110, R124). -/
structure Decoded where
  unit : PressureUnit
  m : BitVec 16
  emis : Emission
  tog : Bool
  x90 : Bool
  ec : ErrCode
  adj : Bool
  vb : Byte
  v : Variant
  mis : Bool
  deriving DecidableEq, Repr

/-- The error code, `currently_adjusting` and X90 of a frame under the strategy: `none` is an error code
outside the ITR90 table. Base and ITR200 do not look at the error byte (42_decode R111, R114 to R116). -/
def errFields (strat : Variant) (st eb : Byte) : Option (ErrCode × Bool × Bool) :=
  match strat with
  | .itr90 => (errOf eb).map fun ec => (ec, adjOf st, true)
  | .none => some (.noError, false, false)
  | .itr200 => some (.noError, false, false)

/-- The pure part of DECODE: the fields of the frame, or the first field that fails in the order UNIT,
ERRCODE, TYPE (42_decode R110, R113, R115, R121 to R123). -/
def decodeFields (variant : Variant) (vlock : Bool) (f : List Byte) : Except DecodeField Decoded :=
  match unitOf (byteAt f 2) with
  | none => .error .unit
  | some unit =>
    match errFields variant (byteAt f 2) (byteAt f 3) with
    | none => .error .errcode
    | some (ec, adj, x90) =>
      if vlock = false ∧ typeTable (byteAt f 7) = .none then .error .type
      else .ok
        { unit, m := magnitudeOf (byteAt f 4) (byteAt f 5), emis := emisOf (byteAt f 2)
          tog := togOf (byteAt f 2), x90, ec, adj, vb := byteAt f 6, v := typeTable (byteAt f 7)
          mis := vlock && decide (typeTable (byteAt f 7) ≠ variant) }

/-- COMMIT: the single update a successfully decoded frame makes (42_decode R124). -/
def commit (d : Decoded) (t : Time) (s : State) : State :=
  append ⟨t, d.unit, d.m⟩
    { s with
      rUnit := d.unit, rM := d.m, rEmis := d.emis, rTog := d.tog
      rX90 := d.x90, rErr := d.ec, rAdj := d.adj, rTs := t
      rvalid := true
      fwver := if s.fwvalid then s.fwver else d.vb
      fwvalid := true
      variant := if s.vlock then s.variant else d.v
      vlock := true
      tmis := s.tmis || d.mis }

/-- DECODE(F, t): the state after it, and the event RXB reports (42_decode R110). -/
def decodeFrame (f : List Byte) (t : Time) (s : State) : State × RxEvent :=
  match decodeFields s.variant s.vlock f with
  | .error e => (takeException (.decode e) s, .decode e)
  | .ok d => (commit d t s, .reading d.mis)

end Sys2Proof.Machine
end

