-- ==== Sys2Proof/Machine/Framesync.lean ====
section
/-! DEFINITION. The serial frame synchronizer: RXB (41_framesync), and the telemetry frame received whole. -/

namespace Sys2Proof.Machine

/-- The validation of a candidate: its first failing test in the order MARK0, MARK1, CHECKSUM, or none
(41_framesync R95, R97, R98). -/
def candidateCause (f : List Byte) : Option Cause :=
  if byteAt f 0 ≠ Config.mark0 then some .mark0
  else if byteAt f 1 ≠ Config.mark1 then some .mark1
  else if byteAt f 8 ≠ chk8 (summed f) then some .checksum
  else none

/-- An RXB step under way: the state, and the response gathered so far. -/
structure RxRun where
  st : State
  ev : RxEvent
  ndisc : Nat
  deriving DecidableEq, Repr

/-- The scan of an unsynchronized buffer: the least index that holds 0x07 (41_framesync R96). -/
def scan (buf : List Byte) : Option Nat := buf.findIdx? (· == Config.mark0)

/-- The loop of 41_framesync R95, for at most so many turns (log 13). -/
def rxLoop (t : Time) : Nat → RxRun → RxRun
  | 0, r => r
  | n + 1, r =>
    if r.st.sync = false then
      match scan r.st.rxbuf with
      | none => { r with st := { r.st with rxbuf := [] }, ndisc := r.ndisc + r.st.rxbuf.length }
      | some k =>
        rxLoop t n
          { r with st := { r.st with rxbuf := r.st.rxbuf.drop k, sync := true }, ndisc := r.ndisc + k }
    else if r.st.rxbuf.length < Config.frameLen then r
    else
      let f := r.st.rxbuf.take Config.frameLen
      match candidateCause f with
      | none =>
        let d := decodeFrame f t { r.st with rxbuf := r.st.rxbuf.drop Config.frameLen }
        rxLoop t n { r with st := d.1, ev := d.2 }
      | some c =>
        rxLoop t n { st := takeException (.framing c) r.st, ev := .framing c, ndisc := r.ndisc + 1 }

/-- More turns than the loop can take on a buffer this long: every two turns without an exit remove a byte. -/
def rxTurns (buf : List Byte) : Nat := 2 * buf.length + 2

/-- RXB(b, t) as a run: append the byte, then the loop (41_framesync R95). -/
def rxRun (b : Byte) (t : Time) (s : State) : RxRun :=
  rxLoop t (rxTurns (s.rxbuf ++ [b])) { st := { s with rxbuf := s.rxbuf ++ [b] }, ev := .none, ndisc := 0 }

/-- The response (EV, INFO, NDISC) of an RXB step (41_framesync R101). -/
def RxRun.response (r : RxRun) : Response := .rx r.ev r.ndisc

/-- RXCHUNK: the bytes received one after the other with one TIME value; the state after the last, and the
responses in order (30_encoding R85). -/
def rxChunk (t : Time) : List Byte → State → State × List Response
  | [], s => (s, [])
  | b :: bs, s =>
    let r := rxRun b t s
    let rest := rxChunk t bs r.st
    (rest.1, r.response :: rest.2)

/-- RXB: receive byte `b` with the W_TS bits of TIME value `t` (41_framesync R95; log 4). -/
def execRxb (b : Byte) (t : Time) (s : State) : Host.Outcome State Fault Refusal :=
  let r := rxRun b (timeInput s t) s
  .next (respond [r.response] r.st)

/-- FRAME: the nine bytes of a telemetry frame are received back to back, each by the RXB step it would
take alone (30_encoding R61, R85 RXFRAME; 41_framesync R103; log 8). -/
def execFrame (status error pHi pLo version type chk : Byte) (t : Time) (s : State) :
    Host.Outcome State Fault Refusal :=
  let r := rxChunk (timeInput s t) [Config.mark0, Config.mark1, status, error, pHi, pLo, version, type, chk] s
  .next (respond r.2 r.1)

end Sys2Proof.Machine
end

