-- ==== Sys2Proof/Machine/Pressure.lean ====
section
/-! DEFINITION. The pressure value function, the exact mean, and both in the format NUM of the response port (42_decode R118, R119; 43_history R138, R143). -/

namespace Sys2Proof.Machine

/-- `C(u) = 4000 * K(u)` with K = 12.5 (mbar), 12.625 (Torr), 10.5 (Pa) (42_decode R118, R119 (a)). -/
def PressureUnit.offset : PressureUnit → Int
  | .mbar => 50000
  | .torr => 50500
  | .pa => 42000

/-- A whole power of ten. -/
def pow10 : Int → Rat
  | .ofNat n => mkRat (10 ^ n) 1
  | .negSucc n => mkRat 1 (10 ^ (n + 1))

/-- `10^(e/4000)`: the whole part of the exponent goes into the coefficient. -/
def ExactNum.exp10 (e : Int) : ExactNum := ⟨[((e % Config.pDiv).toNat, pow10 (e / Config.pDiv))]⟩

/-- Add `q * 10^(r/4000)` to a sum, keeping its terms in rising order and none zero. -/
def addTerm (r : Nat) (q : Rat) : List (Nat × Rat) → List (Nat × Rat)
  | [] => if q = 0 then [] else [(r, q)]
  | (r', q') :: ts =>
    if r < r' then (if q = 0 then (r', q') :: ts else (r, q) :: (r', q') :: ts)
    else if r = r' then (if q + q' = 0 then ts else (r, q + q') :: ts)
    else (r', q') :: addTerm r q ts

/-- The sum of two exact numbers. -/
def ExactNum.add (a b : ExactNum) : ExactNum := ⟨b.terms.foldl (fun acc t => addTerm t.1 t.2 acc) a.terms⟩

/-- An exact number divided by a count that is not 0. -/
def ExactNum.divNat (a : ExactNum) (k : Nat) : ExactNum := ⟨a.terms.map fun t => (t.1, t.2 / (k : Rat))⟩

/-- `pval(u, m) = 10 ^ (m / 4000 − K(u))`, exact (42_decode R118). -/
def pval (u : PressureUnit) (m : BitVec 16) : ExactNum := ExactNum.exp10 ((m.toNat : Int) - u.offset)

/-- The sum of the pressures of these samples, added in the order given (43_history R138). -/
def pressureSum (xs : List Sample) : ExactNum :=
  xs.foldl (fun acc x => ExactNum.add acc (pval x.unit x.m)) ⟨[]⟩

/-- The mean pressure of these samples (43_history R138: `sum / k`). -/
def pressureMean (xs : List Sample) : ExactNum := ExactNum.divNat (pressureSum xs) xs.length

/-! ### The response port -/

/-- PRESSURE in the format NUM: `pval(u, m)`, or what a finite-precision format makes of (u, m) alone
(30_encoding R82, 42_decode R119). -/
def portPressure (f : NumFormat) (u : PressureUnit) (m : BitVec 16) : PortNumber :=
  match f with
  | .exact => .exact (pval u m)
  | .finite => .finite (Config.portPressure u.code m)

/-- The (u, m) pairs of these samples. -/
def samplePairs (xs : List Sample) : List (BitVec 2 × BitVec 16) := xs.map fun x => (x.unit.code, x.m)

/-- MEAN in the format NUM, of the samples newest first: the exact mean, or what a finite-precision format makes
of the (u, m) pairs in that order (30_encoding R81, 43_history R138, R143). -/
def portMean (f : NumFormat) (xs : List Sample) : PortNumber :=
  match f with
  | .exact => .exact (pressureMean xs)
  | .finite => .finite (Config.portMean (samplePairs xs))

end Sys2Proof.Machine
end

