-- ==== Sys2Proof/Machine/History.lean ====
section
/-! DEFINITION. The operations on the circular pressure history: AVG and CLR (43_history). -/

namespace Sys2Proof.Machine

/-- `k` samples read newest first from turn `i` on; none if a cell has no value (43_history R138). -/
def readWindow (s : State) (i : Nat) : Nat → Option (List Sample)
  | 0 => some []
  | k + 1 =>
    match s.hist.read (newestCell s i) with
    | none => none
    | some x => (readWindow s (i + 1) k).map (x :: ·)

/-- The number of samples AVG averages: `min(n, HCNT)` (43_history R138). -/
def windowSize (n : BitVec 16) (s : State) : Nat := min n.toNat s.hcnt

/-- AVG n: the mean over the most recent `min(n, HCNT)` samples, NoDataError when there is none
(43_history R138, R139, R143). -/
def execAvg (n : BitVec 16) (s : State) : Host.Outcome State Fault Refusal :=
  if windowSize n s = 0 then .next (raiseToCaller .noData s)
  else
    match readWindow s 0 (windowSize n s) with
    | some xs => .next (respond [.avg (portMean s.num xs) (BitVec.ofNat 16 (windowSize n s))] s)
    | none => .fault .historyCellUnwritten

/-- CLR: `HCNT <- 0; HWR <- 0`; the cells keep their contents (43_history R140). -/
def execClr (s : State) : Host.Outcome State Fault Refusal :=
  .next (respond [.clr] { s with hcnt := 0, hwr := 0 })

end Sys2Proof.Machine
end

