-- ==== Sys2Proof/Machine/Flags.lean ====
section
/-! DEFINITION. The status word (10_state R20). -/

namespace Sys2Proof.Machine

/-- A flag as a bit. -/
def flagBit (b : Bool) : BitVec 1 := BitVec.ofBool b

/-- STATUS, a view: `{0[5:0], TMIS, DFIELD[1:0], DERR, FERR, FWVALID, VARIANT[1:0], VLOCK, RVALID}`
(10_state R20, 44_query R153). -/
def statusWord (s : State) : BitVec 16 :=
  (0 : BitVec 6) ++ flagBit s.tmis ++ s.dfield ++ flagBit s.derr ++ flagBit s.ferr ++ flagBit s.fwvalid ++
    s.variant.code ++ flagBit s.vlock ++ flagBit s.rvalid

end Sys2Proof.Machine
end

