-- ==== Sys2Proof/Machine/Query.lean ====
section
/-! DEFINITION. The read-only query operations SNAP, VAR, VER and STAT (44_query). -/

namespace Sys2Proof.Machine

/-- The current reading as SNAP reports it (44_query R150). -/
def snapshot (s : State) : Snapshot where
  unit := s.rUnit
  m := s.rM
  pressure := portPressure s.num s.rUnit s.rM
  emis := s.rEmis
  tog := s.rTog
  x90 := s.rX90
  err := s.rErr
  adj := s.rAdj
  variant := s.variant
  fwver := s.fwver
  ts := s.rTs

/-- SNAP: the current reading, NoDataError before the first commit of the session (44_query R150). -/
def execSnap (s : State) : Host.Outcome State Fault Refusal :=
  if s.rvalid then .next (respond [.snap (snapshot s)] s) else .next (raiseToCaller .noData s)

/-- VAR: the session's variant and its lock (44_query R151). -/
def execVar (s : State) : Host.Outcome State Fault Refusal :=
  .next (respond [.var s.variant s.vlock] s)

/-- VER: the sticky firmware version byte and its validity (44_query R152). -/
def execVer (s : State) : Host.Outcome State Fault Refusal :=
  .next (respond [.ver s.fwvalid s.fwver] s)

/-- STAT: the status word and the fill count (44_query R153). -/
def execStat (s : State) : Host.Outcome State Fault Refusal :=
  .next (respond [.stat (statusWord s) (BitVec.ofNat 16 s.hcnt)] s)

/-- The firmware version `FWVER / 20`, exact; it has no value while FWVALID = 0 (10_state R18, 44_query R152). -/
def firmwareVersion (s : State) : Option Rat :=
  if s.fwvalid then some (mkRat s.fwver.toNat Config.vDiv) else none

end Sys2Proof.Machine
end

