-- ==== Sys2Proof/Machine/Session.lean ====
section
/-! DEFINITION. The start of a session: RST (70_reset_and_hazards). -/

namespace Sys2Proof.Machine

/-- Every register at its reset value. The history cells, the parameters and what is offered next stay
(70_reset_and_hazards R195, R196). -/
def startSession (s : State) : State :=
  { s with
    rxbuf := [], sync := false
    variant := .none, vlock := false
    rvalid := false, rUnit := .mbar, rM := 0, rEmis := .off, rTog := false
    rX90 := false, rErr := .noError, rAdj := false, rTs := 0
    fwvalid := false, fwver := 0
    ferr := false, derr := false, dfield := 0, tmis := false
    hwr := 0, hcnt := 0 }

/-- RST: start a session (70_reset_and_hazards R195). -/
def execRst (s : State) : Host.Outcome State Fault Refusal :=
  .next (respond [.rst] (startSession s))

end Sys2Proof.Machine
end

