-- ==== Sys2Proof/Machine/Dispatch.lean ====
section
/-! DEFINITION. The meaning of every instruction. -/

namespace Sys2Proof.Machine

/-- What an instruction does. -/
def exec (i : Instr) (s : State) : Host.Outcome State Fault Refusal :=
  match i with
  | .rxb b t => Sys2Proof.Machine.execRxb b t s
  | .avg n => Sys2Proof.Machine.execAvg n s
  | .clr => Sys2Proof.Machine.execClr s
  | .snap => Sys2Proof.Machine.execSnap s
  | .var => Sys2Proof.Machine.execVar s
  | .ver => Sys2Proof.Machine.execVer s
  | .stat => Sys2Proof.Machine.execStat s
  | .enc len p0 p1 p2 => Sys2Proof.Machine.execEnc len p0 p1 p2 s
  | .rst => Sys2Proof.Machine.execRst s
  | .frame st eb hi lo vb tb c t => Sys2Proof.Machine.execFrame st eb hi lo vb tb c t s
  | .cmdframe p0 p1 p2 c => Sys2Proof.Machine.execCmdframe p0 p1 p2 c s

end Sys2Proof.Machine
end

