-- ==== Sys2Proof/Decode.lean ====
section
/-! DEFINITION. Decoding the words offered at the ports, total and rejecting by name, and encoding back. -/

namespace Sys2Proof

/-- Why an offered word is no instruction. -/
inductive Reject where
  /-- OP is 0x0 or 0x9..0xF (30_encoding R76) -/
  | illegalOpcode
  /-- a defined OP with a non-zero bit among the operand bits R73 shows as 0 (30_encoding R76) -/
  | operandBitsNotZero
  /-- the image does not begin with the markers 0x07 0x05 (30_encoding R61) -/
  | notTelemetryFrame
  /-- the image does not begin with the command marker 0x03 (30_encoding R70) -/
  | notCommandFrame
  deriving DecidableEq, Repr

/-- An operation whose operand bits [27:0] must all be 0 (30_encoding R73, R76). -/
def decodeBare (w : QueryWord) (i : Instr) : Except Reject Instr :=
  if w.extractLsb' 0 28 = 0 then .ok i else .error .operandBitsNotZero

/-- A query command word: OP is `w[31:28]`, the operand fields follow it (30_encoding R72 to R76). -/
def decodeQuery (w : QueryWord) : Except Reject Instr :=
  match (w.extractLsb' 28 4).toNat with
  | 0x1 => if w.extractLsb' 16 12 = 0 then .ok (.avg (w.extractLsb' 0 16)) else .error .operandBitsNotZero
  | 0x2 => decodeBare w .clr
  | 0x3 => decodeBare w .snap
  | 0x4 => decodeBare w .var
  | 0x5 => decodeBare w .ver
  | 0x6 => decodeBare w .stat
  | 0x7 => .ok (.enc (w.extractLsb' 24 4) (w.extractLsb' 16 8) (w.extractLsb' 8 8) (w.extractLsb' 0 8))
  | 0x8 => decodeBare w .rst
  | _ => .error .illegalOpcode

/-- A telemetry frame image: frame index 0 is the most significant byte (30_encoding R61). The
checksum is not looked at here: the synchronizer tests it (41_framesync R97). -/
def decodeWireIn (f : BitVec 72) (t : Time) : Except Reject Instr :=
  if f.extractLsb' 56 16 = Config.mark0 ++ Config.mark1 then
    .ok (.frame (f.extractLsb' 48 8) (f.extractLsb' 40 8) (f.extractLsb' 32 8) (f.extractLsb' 24 8)
      (f.extractLsb' 16 8) (f.extractLsb' 8 8) (f.extractLsb' 0 8) t)
  else .error .notTelemetryFrame

/-- A command frame image: byte 0 is the most significant byte (30_encoding R70). -/
def decodeWireOut (c : BitVec 40) : Except Reject Instr :=
  if c.extractLsb' 32 8 = Config.cmdMark then
    .ok (.cmdframe (c.extractLsb' 24 8) (c.extractLsb' 16 8) (c.extractLsb' 8 8) (c.extractLsb' 0 8))
  else .error .notCommandFrame

/-- What an offered word asks for. Every receive word is RXB (30_encoding R71); the reset input has the
effect of RST (70_reset_and_hazards R195). -/
def decode : PortWord → Except Reject Instr
  | .rx b t => .ok (.rxb b t)
  | .query w => decodeQuery w
  | .wireIn f t => decodeWireIn f t
  | .wireOut c => decodeWireOut c
  | .resetInput => .ok .rst

/-! ### The encoder -/

/-- A query word from its opcode and its operand bits (30_encoding R72). -/
def encodeQuery (op : BitVec 4) (operands : BitVec 28) : PortWord :=
  .query (op ++ operands)

/-- The word of an instruction, from the layouts of 30_encoding R61, R70, R71, R73 and R74. -/
def encode : Instr → PortWord
  | .rxb b t => .rx b t
  | .avg n => encodeQuery 0x1 ((0 : BitVec 12) ++ n)
  | .clr => encodeQuery 0x2 0
  | .snap => encodeQuery 0x3 0
  | .var => encodeQuery 0x4 0
  | .ver => encodeQuery 0x5 0
  | .stat => encodeQuery 0x6 0
  | .enc len p0 p1 p2 => encodeQuery 0x7 (len ++ p0 ++ p1 ++ p2)
  | .rst => encodeQuery 0x8 0
  | .frame st eb hi lo vb tb c t =>
    .wireIn (Config.mark0 ++ Config.mark1 ++ st ++ eb ++ hi ++ lo ++ vb ++ tb ++ c) t
  | .cmdframe p0 p1 p2 c => .wireOut (Config.cmdMark ++ p0 ++ p1 ++ p2 ++ c)

/-! ### The opcode map by match and mask -/

/-- A row of an opcode map: the instruction's bits, read as one number, are `pat` where `mask` is 1. -/
structure OpcodeRow where
  mnemonic : String
  nbits : Nat
  pat : Nat
  mask : Nat
  deriving DecidableEq, Repr

/-- The query port's opcode map (30_encoding R75). -/
def queryMap : List OpcodeRow :=
  [ ⟨"AVG", 32, 0x10000000, 0xFFFF0000⟩,
    ⟨"CLR", 32, 0x20000000, 0xFFFFFFFF⟩,
    ⟨"SNAP", 32, 0x30000000, 0xFFFFFFFF⟩,
    ⟨"VAR", 32, 0x40000000, 0xFFFFFFFF⟩,
    ⟨"VER", 32, 0x50000000, 0xFFFFFFFF⟩,
    ⟨"STAT", 32, 0x60000000, 0xFFFFFFFF⟩,
    ⟨"ENC", 32, 0x70000000, 0xF0000000⟩,
    ⟨"RST", 32, 0x80000000, 0xFFFFFFFF⟩ ]

/-- All rows of spec/opcode_table.json. -/
def opcodeTable : List OpcodeRow :=
  queryMap ++
  [ ⟨"RXB", 8, 0x00, 0x00⟩,
    ⟨"FRAME", 72, 0x070500000000000000, 0xFFFF00000000000000⟩,
    ⟨"CMDFRAME", 40, 0x0300000000, 0xFF00000000⟩ ]

/-- How many bits the opcode table gives a word: the TIME side band is "not part of the word". -/
def PortWord.nbits : PortWord → Nat
  | .rx _ _ => 8
  | .query _ => 32
  | .wireIn _ _ => 72
  | .wireOut _ => 40
  | .resetInput => 0

/-- A word's bits as one number, bit 0 least significant. -/
def PortWord.value : PortWord → Nat
  | .rx b _ => b.toNat
  | .query w => w.toNat
  | .wireIn f _ => f.toNat
  | .wireOut c => c.toNat
  | .resetInput => 0

/-- "`w & mask == match` selects the row" (30_encoding R75). -/
def PortWord.fits (p : PortWord) (r : OpcodeRow) : Bool :=
  p.nbits == r.nbits && p.value &&& r.mask == r.pat

/-- The port word of `nbits` bits whose number is `w`, every bit above `nbits` (the TIME side band) zero.
The widths of the opcode table's formats differ, so the width names the port. -/
def tableWord (nbits w : Nat) : Option PortWord :=
  match nbits with
  | 8 => some (.rx (BitVec.ofNat 8 w) 0)
  | 32 => some (.query (BitVec.ofNat 32 w))
  | 72 => some (.wireIn (BitVec.ofNat 72 w) 0)
  | 40 => some (.wireOut (BitVec.ofNat 40 w))
  | _ => none

/-- The instruction the decoder reads from the `nbits` bits `w`, numbered as the opcode table numbers
them (log 16). -/
def decodeTableWord (nbits w : Nat) : Option Instr :=
  match tableWord nbits w with
  | some p =>
    match decode p with
    | .ok i => some i
    | .error _ => none
  | none => none

end Sys2Proof
end

