-- ==== Sys2Proof/Machine/Offer.lean ====
section
/-! DEFINITION. The words offered to the ports: taking the next one, what happens to one that is no instruction, and offering one. -/

namespace Sys2Proof.Machine

/-- The next word in the total order of all agents' operations, and the state without it (20_memory R48;
log 1). -/
def accept (s : State) : Option (PortWord × State) :=
  match s.pending with
  | [] => none
  | p :: rest => some (p, { s with pending := rest })

/-- What an offered word that is no instruction does: an illegal query word raises IllegalOperation
(30_encoding R76, 60_exceptions R175); an image that is no wire format is refused (logs 8, 9). -/
def refuseWord (e : Reject) (s : State) : Host.Outcome State Fault Refusal :=
  match e with
  | .illegalOpcode => .next (raiseToCaller .illegalOperation s)
  | .operandBitsNotZero => .next (raiseToCaller .illegalOperation s)
  | .notTelemetryFrame => .refused .notTelemetryFrame
  | .notCommandFrame => .refused .notCommandFrame

/-- Offer the word of `nbits` bits whose number is `w`, before all others (log 1). -/
def offerTableWord (s : State) (nbits w : Nat) : State :=
  match tableWord nbits w with
  | some p => { s with pending := p :: s.pending }
  | none => s

end Sys2Proof.Machine
end

