-- ==== Sys2Proof/Machine/Step.lean ====
section
/-! DEFINITION. One step: the block accepts the next offered word and performs its operation. -/

namespace Sys2Proof.Machine

/-- One step. With nothing offered nothing happens: "nothing happens between operations" (60_exceptions
R186). -/
def step (s : State) : Host.Outcome State Fault Refusal :=
  match accept s with
  | none => .next s
  | some (p, s') =>
    match decode p with
    | .ok i => exec i s'
    | .error e => refuseWord e s'

/-- `s` with the word of `nbits` bits whose number is `w` offered next (log 1). -/
def State.withFetchWord (s : State) (nbits w : Nat) : State := offerTableWord s nbits w

end Sys2Proof.Machine
end

