-- ==== Sys2Proof/Machine/Assembler.lean ====
section
/-! DEFINITION. The pseudo-operations and their expansions (30_encoding R85), and how an operation is written (30_encoding R84). None has an encoding of its own. -/

namespace Sys2Proof.Machine

/-- RXCHUNK: one RXB per byte, in order; the empty chunk expands to nothing (30_encoding R85). -/
def expandRxChunk (bs : List Byte) (t : Time) : List Instr := bs.map fun b => .rxb b t

/-- RXFRAME: the nine RXB of a valid frame with these fields (30_encoding R85). -/
def expandRxFrame (st eb hi lo vb tb : Byte) (t : Time) : List Instr :=
  expandRxChunk
    [Config.mark0, Config.mark1, st, eb, hi, lo, vb, tb, chk8 [Config.mark1, st, eb, hi, lo, vb, tb]] t

/-- One ENC with LEN = 3 of a payload of CMD_TABLE (45_command R162). -/
def expandCommand (p : Byte × Byte × Byte) : List Instr := [.enc 3 p.1 p.2.1 p.2.2]

/-- SETUNIT u: "outside 0..2 has no expansion and is refused by the assembler" (45_command R162). -/
def expandSetUnit (tbl : Config.CmdTable) (u : Nat) : Option (List Instr) :=
  match u with
  | 0 => some (expandCommand tbl.setMbar)
  | 1 => some (expandCommand tbl.setTorr)
  | 2 => some (expandCommand tbl.setPa)
  | _ => none

/-- DEGAS on (30_encoding R85). -/
def expandDegas (tbl : Config.CmdTable) (on : Bool) : List Instr :=
  expandCommand (if on then tbl.degasOn else tbl.degasOff)

/-- SAVEUNIT (30_encoding R85). -/
def expandSaveUnit (tbl : Config.CmdTable) : List Instr := expandCommand tbl.saveUnit

/-- Operands in decimal, separated by commas (30_encoding R84). -/
def operandText (xs : List Nat) : String := String.intercalate ", " (xs.map toString)

/-- How an operation is written, mnemonic first (30_encoding R84); a wire format is written by its bytes. -/
def asmText (i : Instr) : String :=
  match i with
  | .rxb b t => i.mnemonic ++ " " ++ toString b.toNat ++ " @" ++ toString t
  | .avg n => i.mnemonic ++ " " ++ toString n.toNat
  | .clr => i.mnemonic
  | .snap => i.mnemonic
  | .var => i.mnemonic
  | .ver => i.mnemonic
  | .stat => i.mnemonic
  | .enc len p0 p1 p2 => i.mnemonic ++ " " ++ operandText [len.toNat, p0.toNat, p1.toNat, p2.toNat]
  | .rst => i.mnemonic
  | .frame st eb hi lo vb tb c t =>
    i.mnemonic ++ " " ++ operandText [st.toNat, eb.toNat, hi.toNat, lo.toNat, vb.toNat, tb.toNat, c.toNat]
      ++ " @" ++ toString t
  | .cmdframe p0 p1 p2 c => i.mnemonic ++ " " ++ operandText [p0.toNat, p1.toNat, p2.toNat, c.toNat]

end Sys2Proof.Machine
end

