-- ==== Sys2Proof/WellFormed.lean ====
section
/-! DEFINITION. Which terms of `Instr` are operations of the spec: the operands' types say it of every operation; of the two wire formats the checksum says it. -/

namespace Sys2Proof

/-- Every operand of an operation is legal (30_encoding R71, R73, R74); a telemetry frame satisfies
"byte[8] == checksum(byte[1..7])" (30_encoding R61, R67), a command frame carries the checksum of its
payload (30_encoding R70). -/
def Instr.wellFormed : Instr → Bool
  | .rxb _ _ => true
  | .avg _ => true
  | .clr => true
  | .snap => true
  | .var => true
  | .ver => true
  | .stat => true
  | .enc _ _ _ _ => true
  | .rst => true
  | .frame st eb hi lo vb tb c _ => c == Machine.chk8 [Config.mark1, st, eb, hi, lo, vb, tb]
  | .cmdframe p0 p1 p2 c => c == Machine.chk8 [p0, p1, p2]

end Sys2Proof
end

