-- ==== Sys2Proof/Safety.lean ====
section
/-! DEFINITION. The terms claims are stated in: the machine's invariant, the real value of an exact number, the spec's stream-level view of the synchronizer. -/

namespace Sys2Proof.Machine

/-! ### The invariant -/

/-- 10_state R13 (a), (b): between operations at most 8 bytes are buffered, and none while unsynchronized. -/
structure State.BufInv (s : State) : Prop where
  short : s.rxbuf.length ≤ 8
  empty : s.sync = false → s.rxbuf = []

/-- The ring (10_state R21, R23; 00_scope R6): the indices are in range, HIST is canonical and in range, and
every sample of `hist()` has been written. -/
structure State.RingInv (s : State) : Prop where
  capPos : 1 ≤ s.histCap
  capMax : s.histCap ≤ Config.histCapMax
  hwrLt : s.hwr < s.histCap
  hcntLe : s.hcnt ≤ s.histCap
  canonical : s.hist.wf = true
  inRange : ∀ i x, s.hist.read i = some x → i < s.histCap
  written : ∀ j, j < s.hcnt → (s.hist.read (oldestCell s j)).isSome = true

/-- The session's registers (10_state R15, R16, R18, R19; 42_decode R125 (a), (d)). -/
structure State.SessionInv (s : State) : Prop where
  lock : s.vlock = s.rvalid
  resolved : s.vlock = true ↔ s.variant ≠ .none
  version : s.fwvalid = s.rvalid
  field : s.derr = true ↔ s.dfield ≠ 0
  strategy : s.rX90 = true → s.variant = .itr90
  noCode : s.rX90 = false → s.rErr = .noError ∧ s.rAdj = false
  noSample : s.rvalid = false → s.hcnt = 0

/-- R_TS and the TS of every cell have W_TS bits (10_state R16, R22). -/
structure State.TimeInv (s : State) : Prop where
  reading : s.rTs < 2 ^ s.wTs
  cells : ∀ i x, s.hist.read i = some x → x.ts < 2 ^ s.wTs

/-- No response a caller gets carries the code of a FramingError or of a DecodeError (60_exceptions R176). -/
def Response.contained (r : Response) : Prop := r.st ≠ some 1 ∧ r.st ≠ some 2

/-- What holds in every state between two operations of a session. -/
structure State.Inv (s : State) : Prop where
  buf : s.BufInv
  ring : s.RingInv
  session : s.SessionInv
  time : s.TimeInv
  responses : ∀ r ∈ s.resp, r.contained

/-! ### Real values -/

/-- K(u) (42_decode R118). -/
def PressureUnit.K : PressureUnit → ℚ
  | .mbar => 25 / 2
  | .torr => 101 / 8
  | .pa => 21 / 2

/-- The pressure value function of 42_decode R118 as a real number. -/
noncomputable def realPressure (u : PressureUnit) (m : BitVec 16) : ℝ :=
  (10 : ℝ) ^ ((m.toNat : ℝ) / 4000 - (u.K : ℝ))

/-- The real number an exact number stands for. -/
noncomputable def ExactNum.value (x : ExactNum) : ℝ :=
  (x.terms.map fun t => (t.2 : ℝ) * (10 : ℝ) ^ ((t.1 : ℝ) / 4000)).sum

/-- The canonical form of an exact number: the `r` below 4000 and strictly rising, no coefficient zero. -/
def ExactNum.canonical (x : ExactNum) : Prop :=
  (x.terms.map Prod.fst).Pairwise (· < ·) ∧ ∀ t ∈ x.terms, t.1 < 4000 ∧ t.2 ≠ 0

/-! ### Frames of a stream -/

/-- `valid(F)`: `F[0] = 0x07` and `F[1] = 0x05` and `F[8] = chk8(F[1..7])` (41_framesync R97). -/
def validFrame (f : List Byte) : Bool :=
  byteAt f 0 == 0x07 && byteAt f 1 == 0x05 && byteAt f 8 == chk8 (summed f)

/-- `frames(s)` of 41_framesync R104, for streams of fewer bytes than the first argument. -/
def framesUpTo : Nat → List Byte → List (List Byte)
  | 0, _ => []
  | n + 1, s =>
    match scan s with
    | none => []
    | some k =>
      if s.length - k < 9 then []
      else if validFrame ((s.drop k).take 9) then (s.drop k).take 9 :: framesUpTo n (s.drop (k + 9))
      else framesUpTo n (s.drop (k + 1))

/-- `frames(s)`: the frames handed to DECODE for a received stream (41_framesync R104). -/
def frames (s : List Byte) : List (List Byte) := framesUpTo (s.length + 1) s

/-- The state after one operation, for operations that always answer one. -/
def stateAfter (i : Instr) (s : State) : State :=
  match exec i s with
  | .next s' => s'
  | .fault _ => s
  | .refused _ => s

/-- Whether the latest step handed a frame to DECODE: its RXB response is READING or DECODE (41_framesync R105). -/
def handedOver (s : State) : Bool :=
  match s.resp with
  | [.rx (.reading _) _] => true
  | [.rx (.decode _) _] => true
  | _ => false

/-- The frames handed to DECODE while these bytes are received: at each RXB that hands one over, the first
nine bytes then buffered. -/
def framesHanded : List (Byte × Time) → State → List (List Byte)
  | [], _ => []
  | (b, t) :: rest, s =>
    let s' := stateAfter (.rxb b t) s
    if handedOver s' then (s.rxbuf ++ [b]).take 9 :: framesHanded rest s' else framesHanded rest s'

/-- The state after receiving these bytes one RXB each, with one TIME value, and the responses in order. -/
def receiveAll (t : Time) : List Byte → State → State × List Response
  | [], s => (s, [])
  | b :: bs, s =>
    let s' := stateAfter (.rxb b t) s
    ((receiveAll t bs s').1, s'.resp ++ (receiveAll t bs s').2)

/-! ### The operations of a session -/

/-- The operations that start a new session. -/
def startsSession (p : PortWord) : Bool :=
  match decode p with
  | .ok .rst => true
  | _ => false

/-- APPEND of several samples, the first of the list first (43_history R137). -/
def appendAll (xs : List Sample) (s : State) : State := xs.foldl (fun s x => append x s) s

end Sys2Proof.Machine
end

