-- ==== Sys2Proof/Certificates/Slice0/Obligations.lean ====
section
/-! DEFINITION. The statements about the machine, for the provers. -/

open Sys2Proof Sys2Proof.Machine

/-! ### Reset and the step -/

/-- R29: the value of every register after reset; HIST is unspecified there. -/
def Obligations.ResetRegisterValues : Prop :=
  State.reset.rxbuf = [] ∧ State.reset.sync = false ∧ State.reset.variant.code = 0 ∧
  State.reset.vlock = false ∧ State.reset.rvalid = false ∧ State.reset.rUnit.code = 0 ∧
  State.reset.rM = 0 ∧ State.reset.rEmis.code = 0 ∧ State.reset.rTog = false ∧
  State.reset.rX90 = false ∧ State.reset.rErr.code = 0 ∧ State.reset.rAdj = false ∧
  State.reset.rTs = 0 ∧ State.reset.fwvalid = false ∧ State.reset.fwver = 0 ∧
  State.reset.ferr = false ∧ State.reset.derr = false ∧ State.reset.dfield = 0 ∧
  State.reset.tmis = false ∧ State.reset.hwr = 0 ∧ State.reset.hcnt = 0

/-- The invariant holds right after reset. -/
def Obligations.ResetMeetsInvariant : Prop := State.reset.Inv

/-- A step performs the decoded operation of the next word of the total order on the state left by all
operations before it. -/
def Obligations.StepRunsDecodedInstruction : Prop :=
  ∀ (s : State) (p : PortWord) (rest : List PortWord) (i : Instr),
    s.pending = p :: rest → decode p = .ok i → step s = exec i { s with pending := rest }

/-- R186, the model's reading of it (log 1): with nothing offered a step changes nothing. -/
def Obligations.StepIdlesBetweenOperations : Prop :=
  ∀ s : State, s.pending = [] → step s = .next s

/-- R76, R175: a query word that matches no row of the opcode map takes IllegalOperation: ST = 5, no state
changes. -/
def Obligations.IllegalQueryWordTakesIllegalOperation : Prop :=
  ∀ (s : State) (w : QueryWord) (rest : List PortWord),
    s.pending = .query w :: rest → (∀ r ∈ queryMap, (PortWord.query w).fits r = false) →
    ∃ r : Response, r = .error .illegalOperation ∧ r.st = some 5 ∧
      step s = .next { s with pending := rest, resp := [r] }

/-- The invariant is kept by every step. -/
def Obligations.StepKeepsInvariant : Prop :=
  ∀ s s' : State, s.Inv → step s = .next s' → s'.Inv

/-- R177: no exception stops the block. From a state that meets the invariant a step answers a next state,
whatever the next word: a receive word, any query word (the illegal ones too), the reset input, a telemetry image
that begins with its two markers, or a command image with its marker and the checksum of its payload. Images as
words are the model's choice (logs 8, 9). -/
def Obligations.EveryOperationIsAccepted : Prop :=
  ∀ (s : State) (p : PortWord) (rest : List PortWord), s.Inv → s.pending = p :: rest →
    (∀ f t, p = .wireIn f t → f.extractLsb' 56 16 = 0x0705) →
    (∀ c, p = .wireOut c → c.extractLsb' 32 8 = 0x03 ∧
      c.extractLsb' 0 8 = c.extractLsb' 24 8 + c.extractLsb' 16 8 + c.extractLsb' 8 8) →
    ∃ s', step s = .next s'

/-- The model's own refusals (logs 8, 9): an image that does not begin with its row's markers is refused by name. -/
def Obligations.OtherImagesAreRefused : Prop :=
  ∀ (s : State) (rest : List PortWord),
    (∀ f t, s.pending = .wireIn f t :: rest → f.extractLsb' 56 16 ≠ 0x0705 →
      step s = .refused .notTelemetryFrame) ∧
    (∀ c, s.pending = .wireOut c :: rest → c.extractLsb' 32 8 ≠ 0x03 → step s = .refused .notCommandFrame)

/-! ### Encodings -/

/-- Words written out from the spec's encodings decode to the instructions they stand for: the words of RXB, AVG,
CLR, ENC and RST and an illegal one as R71 and R75 lay them out, and the bytes of R61 and R70. The model's choice
are FRAME and CMDFRAME as instructions (logs 8, 9: DESIGN CHOICE), the numbering of their bytes in the 72-bit and
40-bit words, and TIME 0 in the RXB and FRAME words (log 16: DEDUCED). -/
def Obligations.HandWordsDecode : Prop :=
  decodeTableWord 8 0x07 = some (.rxb 0x07 0) ∧
  decodeTableWord 32 0x1000003C = some (.avg 60) ∧
  decodeTableWord 32 0x20000000 = some .clr ∧
  decodeTableWord 32 0x73102030 = some (.enc 3 0x10 0x20 0x30) ∧
  decodeTableWord 32 0x80000000 = some .rst ∧
  decodeTableWord 32 0x30000001 = none ∧
  decodeTableWord 72 0x070509002000280A60 = some (.frame 0x09 0x00 0x20 0x00 0x28 0x0A 0x60 0) ∧
  decodeTableWord 40 0x0310203060 = some (.cmdframe 0x10 0x20 0x30 0x60)

/-- Decoding the encoding of any instruction gives it back, with every operand at every value. -/
def Obligations.DecodeEncodeRoundTrip : Prop := ∀ i : Instr, decode (encode i) = .ok i

/-- Every word but the reset input has one meaning: encoding what was decoded gives the word back. -/
def Obligations.EncodeDecodeRoundTrip : Prop :=
  ∀ (p : PortWord) (i : Instr), p ≠ .resetInput → decode p = .ok i → encode i = p

/-- R75: "The rows are disjoint". No query word fits two rows of the opcode map. -/
def Obligations.QueryMapRowsAreDisjoint : Prop :=
  ∀ (w : QueryWord) (r r' : OpcodeRow), r ∈ queryMap → r' ∈ queryMap →
    (PortWord.query w).fits r = true → (PortWord.query w).fits r' = true → r = r'

/-- R75, R76: the decoder reads from a query word the operation of the row that `w & mask == match`
selects, and refuses a word that matches no row. -/
def Obligations.DecoderFollowsQueryMap : Prop :=
  ∀ (w : QueryWord),
    (∀ i, decode (.query w) = .ok i →
      ∃ r ∈ queryMap, r.mnemonic = i.mnemonic ∧ (PortWord.query w).fits r = true) ∧
    (∀ r ∈ queryMap, (PortWord.query w).fits r = true →
      ∃ i, decode (.query w) = .ok i ∧ i.mnemonic = r.mnemonic)

/-! ### The checksum -/

/-- R90: the sum of all byte values modulo 256. -/
def Obligations.ChecksumIsSumModulo256 : Prop :=
  ∀ s : List Byte, (chk8 s).toNat = (s.map BitVec.toNat).sum % 256

/-- R91 (c), (d): the checksum of a concatenation, and of a permutation. -/
def Obligations.ChecksumIgnoresOrder : Prop :=
  (∀ s t : List Byte, chk8 (s ++ t) = chk8 s + chk8 t) ∧
  (∀ s t : List Byte, s.Perm t → chk8 s = chk8 t)

/-- R91 (f): changing exactly one byte changes the checksum. -/
def Obligations.ChecksumSeesOneChangedByte : Prop :=
  ∀ (pre post : List Byte) (a b : Byte), a ≠ b → chk8 (pre ++ a :: post) ≠ chk8 (pre ++ b :: post)

/-! ### RXB: the synchronizer -/

/-- R204: every RXB offered is accepted and completes, with one record for the receive agent; what is offered next
and the parameters stay. -/
def Obligations.ReceiveAlwaysCompletes : Prop :=
  ∀ (b : Byte) (t : Time) (s : State), ∃ (s' : State) (ev : RxEvent) (nd : Nat),
    exec (.rxb b t) s = .next s' ∧ s'.resp = [.rx ev nd] ∧ s'.pending = s.pending ∧
    s'.histCap = s.histCap ∧ s'.wTs = s.wTs ∧ s'.num = s.num

/-- R105, rows 1 and 2: unsynchronized with an empty buffer. -/
def Obligations.ReceiveUnsynchronized : Prop :=
  ∀ (b : Byte) (t : Time) (s : State), s.sync = false → s.rxbuf = [] →
    exec (.rxb b t) s = .next
      (if b = 0x07 then { s with rxbuf := [b], sync := true, resp := [.rx .none 0] }
       else { s with resp := [.rx .none 1] })

/-- R105, row 3: synchronized, and fewer than 9 bytes buffered after the append. -/
def Obligations.ReceiveWaitsForNineBytes : Prop :=
  ∀ (b : Byte) (t : Time) (s : State), s.sync = true → (s.rxbuf ++ [b]).length < 9 →
    exec (.rxb b t) s = .next { s with rxbuf := s.rxbuf ++ [b], resp := [.rx .none 0] }

/-- R98: a candidate fails. Its first byte is dropped and the remaining 8 are scanned in the same step: without a
0x07 among them all 9 bytes are discarded, with the first 0x07 at index `j` of the candidate `j` bytes are. The
cause is the first failing of MARK0, MARK1, CHECKSUM. Nothing else changes. -/
def Obligations.FramingErrorDropsOneByteAndRescans : Prop :=
  ∀ (b : Byte) (t : Time) (s : State) (f : List Byte) (c : Cause),
    s.sync = true → f = s.rxbuf ++ [b] → f.length = 9 → validFrame f = false →
    (c = if byteAt f 0 ≠ 0x07 then .mark0 else if byteAt f 1 ≠ 0x05 then .mark1 else .checksum) →
    ((0x07 : Byte) ∉ f.drop 1 →
      exec (.rxb b t) s = .next
        { s with rxbuf := [], sync := false, ferr := true, resp := [.rx (.framing c) 9] }) ∧
    (∀ j, 1 ≤ j → j ≤ 8 → byteAt f j = 0x07 → (∀ i, 1 ≤ i → i < j → byteAt f i ≠ 0x07) →
      exec (.rxb b t) s = .next
        { s with rxbuf := f.drop j, sync := true, ferr := true, resp := [.rx (.framing c) j] })

/-- R100: between operations the loop of an RXB step needs at most four turns, whatever bound it is given. -/
def Obligations.ReceiveLoopNeedsFourTurns : Prop :=
  ∀ (b : Byte) (t : Time) (s : State) (n : Nat), s.BufInv → 4 ≤ n →
    rxLoop t n ⟨{ s with rxbuf := s.rxbuf ++ [b] }, .none, 0⟩ = rxRun b t s

/-- R101: the number of discarded bytes an RXB step reports is at most 9. -/
def Obligations.DiscardCountIsAtMostNine : Prop :=
  ∀ (b : Byte) (t : Time) (s s' : State) (ev : RxEvent) (nd : Nat), s.BufInv →
    exec (.rxb b t) s = .next s' → s'.resp = [.rx ev nd] → nd ≤ 9

/-- R104: starting with an empty buffer, in either synchronizer state, the frames handed to DECODE for a
received stream are `frames(s)`. -/
def Obligations.FramesHandedAreFramesOfStream : Prop :=
  ∀ (stream : List (Byte × Time)) (s : State), s.rxbuf = [] →
    framesHanded stream s = frames (stream.map Prod.fst)

/-! ### DECODE and COMMIT -/

/-- R112 to R116, R120 to R122: which frames the decoder rejects, and with which field. -/
def Obligations.DecodeRejectsFirstBadField : Prop :=
  ∀ (v : Variant) (l : Bool) (f : List Byte),
    let badUnit := (byteAt f 2).extractLsb' 4 2 = 3
    let badCode := v = .itr90 ∧ ∀ k ∈ ([0, 5, 8, 9] : List (BitVec 4)), (byteAt f 3).extractLsb' 4 4 ≠ k
    let badType := l = false ∧ byteAt f 7 ≠ 10 ∧ byteAt f 7 ≠ 12
    (decodeFields v l f = .error .unit ↔ badUnit) ∧
    (decodeFields v l f = .error .errcode ↔ ¬ badUnit ∧ badCode) ∧
    (decodeFields v l f = .error .type ↔ ¬ badUnit ∧ ¬ badCode ∧ badType) ∧
    ((∃ d, decodeFields v l f = .ok d) ↔ ¬ badUnit ∧ ¬ badCode ∧ ¬ badType)

/-- R68, R111 to R117: what the decoder reads from an accepted frame, bit by bit. -/
def Obligations.DecodeAssemblesFields : Prop :=
  ∀ (v : Variant) (l : Bool) (f : List Byte) (d : Decoded), decodeFields v l f = .ok d →
    d.unit.code = (byteAt f 2).extractLsb' 4 2 ∧
    d.emis.code = (byteAt f 2).extractLsb' 0 2 ∧
    d.tog = (byteAt f 2).getLsbD 3 ∧
    d.m.toNat = (byteAt f 4).toNat * 256 + (byteAt f 5).toNat ∧
    d.vb = byteAt f 6 ∧
    (v = .itr90 → d.x90 = true ∧ d.ec.code = (byteAt f 3).extractLsb' 4 4 ∧ d.adj = (byteAt f 2).getLsbD 2) ∧
    (v ≠ .itr90 → d.x90 = false ∧ d.ec.code = 0 ∧ d.adj = false) ∧
    (d.v = .itr90 ↔ byteAt f 7 = 10) ∧ (d.v = .itr200 ↔ byteAt f 7 = 12) ∧
    (d.mis = true ↔ l = true ∧ d.v ≠ v)

/-- R123: a validated frame with a field outside its table is rejected with the first such field in the order
UNIT, ERRCODE, TYPE: DERR and DFIELD are set, the 9 bytes are consumed, and nothing else changes. -/
def Obligations.RejectedFrameKeepsSession : Prop :=
  ∀ (b : Byte) (t : Time) (s : State) (f : List Byte),
    let badUnit := (byteAt f 2).extractLsb' 4 2 = 3
    let badCode := s.variant = .itr90 ∧
      ∀ k ∈ ([0, 5, 8, 9] : List (BitVec 4)), (byteAt f 3).extractLsb' 4 4 ≠ k
    let badType := s.vlock = false ∧ byteAt f 7 ≠ 10 ∧ byteAt f 7 ≠ 12
    s.sync = true → f = s.rxbuf ++ [b] → f.length = 9 → validFrame f = true →
    badUnit ∨ badCode ∨ badType →
    ∃ e : DecodeField, (e = .unit ↔ badUnit) ∧ (e = .errcode ↔ ¬ badUnit ∧ badCode) ∧
      exec (.rxb b t) s = .next
        { s with rxbuf := [], derr := true, dfield := e.code, resp := [.rx (.decode e) 0] }

/-- R124, R136: an accepted frame commits the reading, the sticky version and variant and one history sample, with
the TIME value of W_TS bits that came with its last byte, and changes nothing else. (What more bits than W_TS do is
`TimeInputHasItsWidth`.) -/
def Obligations.AcceptedFrameCommits : Prop :=
  ∀ (b : Byte) (t : Time) (s : State) (f : List Byte) (d : Decoded),
    s.sync = true → f = s.rxbuf ++ [b] → f.length = 9 → validFrame f = true →
    decodeFields s.variant s.vlock f = .ok d → s.hwr < s.histCap → t < 2 ^ s.wTs →
    exec (.rxb b t) s = .next
      { s with
        rxbuf := []
        rUnit := d.unit, rM := d.m, rEmis := d.emis, rTog := d.tog
        rX90 := d.x90, rErr := d.ec, rAdj := d.adj, rTs := t, rvalid := true
        fwver := if s.fwvalid = false then d.vb else s.fwver, fwvalid := true
        variant := if s.vlock = false then d.v else s.variant, vlock := true
        tmis := if d.mis = true then true else s.tmis
        hist := s.hist.write s.hwr ⟨t, d.unit, d.m⟩
        hwr := (s.hwr + 1) % s.histCap
        hcnt := if s.hcnt < s.histCap then s.hcnt + 1 else s.hcnt
        resp := [.rx (.reading d.mis) 0] }

/-! ### The history -/

/-- R136, on the sequence and on the array: evict the oldest sample at capacity, then add the new one at the end;
write the cell at HWR, move HWR on modulo the capacity, count up to the capacity. -/
def Obligations.AppendOnSequenceAndArray : Prop :=
  ∀ (x : Sample) (s : State), s.RingInv →
    histSeq (append x s) =
      (if (histSeq s).length = s.histCap then (histSeq s).drop 1 else histSeq s) ++ [some x] ∧
    append x s =
      { s with
        hist := s.hist.write s.hwr x
        hwr := (s.hwr + 1) % s.histCap
        hcnt := if s.hcnt < s.histCap then s.hcnt + 1 else s.hcnt } ∧
    (append x s).hist.read s.hwr = some x ∧
    ∀ i, i ≠ s.hwr → (append x s).hist.read i = s.hist.read i

/-- R137: after `j` appends since the last reset or CLR, `hist()` is the last `min(j, HIST_CAP)` appended
samples in order of appending. -/
def Obligations.HistoryKeepsMostRecent : Prop :=
  ∀ (xs : List Sample) (s : State), s.RingInv → s.hcnt = 0 →
    histSeq (appendAll xs s) = (xs.drop (xs.length - s.histCap)).map some

/-- R138: NoDataError when `min(n, HCNT) = 0`; else the mean of the pressures of the last `min(n, HCNT)` samples of
`hist()`, as a real number when NUM is exact, and their number. No state is written. (MEAN in a finite NUM is
`FiniteNumbersAreConfigurationFunctions`.) -/
def Obligations.AverageOfMostRecentSamples : Prop :=
  ∀ (n : BitVec 16) (s : State) (k : Nat), s.RingInv → k = min n.toNat s.hcnt →
    (k = 0 → exec (.avg n) s = .next { s with resp := [.error .noData] } ∧
      (Response.error .noData).st = some 3) ∧
    (0 < k → ∃ (xs : List Sample) (mean : PortNumber) (used : BitVec 16),
      (histSeq s).drop (s.hcnt - k) = xs.map some ∧ xs.length = k ∧ used.toNat = k ∧
      exec (.avg n) s = .next { s with resp := [.avg mean used] } ∧
      (s.num = .exact → ∃ x, mean = .exact x ∧
        x.value = (xs.map fun x => realPressure x.unit x.m).sum / k))

/-- The model's own stop (log 7): AVG faults exactly if one of the last `min(n, HCNT)` samples of `hist()` stands in a
cell nothing has written. -/
def Obligations.AverageFaultsOnUnwrittenCell : Prop :=
  ∀ (n : BitVec 16) (s : State),
    exec (.avg n) s = .fault .historyCellUnwritten ↔ none ∈ (histSeq s).drop (s.hcnt - min n.toNat s.hcnt)

/-- R139 (g): the mean is positive and lies between the least and the greatest averaged value. -/
def Obligations.AverageLiesBetweenExtremes : Prop :=
  ∀ (xs : List Sample) (lo hi : ℝ), xs ≠ [] →
    (∀ x ∈ xs, lo ≤ realPressure x.unit x.m ∧ realPressure x.unit x.m ≤ hi) →
    0 < (pressureMean xs).value ∧ lo ≤ (pressureMean xs).value ∧ (pressureMean xs).value ≤ hi

/-- R140: CLR empties the history and changes nothing else. -/
def Obligations.ClearEmptiesHistory : Prop :=
  ∀ s : State, ∃ s', exec .clr s = .next s' ∧
    s' = { s with hcnt := 0, hwr := 0, resp := [.clr] } ∧ histSeq s' = []

/-! ### Pressures -/

/-- R118: `pval` is the real power of ten. -/
def Obligations.PressureValueIsExact : Prop :=
  ∀ (u : PressureUnit) (m : BitVec 16), (pval u m).value = realPressure u m

/-- R119 (b): `pval` is strictly increasing in M, one step multiplying it by 10^(1/4000). -/
def Obligations.PressureRisesWithMagnitude : Prop :=
  ∀ (u : PressureUnit) (m m' : BitVec 16), m.toNat + 1 = m'.toNat →
    (pval u m).value < (pval u m').value ∧
    (pval u m').value = (pval u m).value * (10 : ℝ) ^ ((1 : ℝ) / 4000)

/-- R119 (e): the Pa value is exactly 100 times the mbar value, the Torr value 10^−0.125 times. -/
def Obligations.PressureUnitsRelate : Prop :=
  ∀ m : BitVec 16, (pval .pa m).value = 100 * (pval .mbar m).value ∧
    (pval .torr m).value = (10 : ℝ) ^ (-(1 : ℝ) / 8) * (pval .mbar m).value

/-- The exact sums stay in their canonical form (log 5). -/
def Obligations.ExactMeansAreCanonical : Prop :=
  ∀ xs : List Sample, (pressureMean xs).canonical

/-! ### The query operations -/

/-- R150: SNAP answers the reading registers, their pressure and the sticky variant and version, NoDataError before
the first commit. No state is written. (PRESSURE in a finite NUM is `FiniteNumbersAreConfigurationFunctions`.) -/
def Obligations.SnapshotOfReading : Prop :=
  ∀ s : State,
    (s.rvalid = true → ∃ pressure : PortNumber, exec .snap s = .next
      { s with
        resp := [.snap
          { unit := s.rUnit, m := s.rM, pressure, emis := s.rEmis, tog := s.rTog
            x90 := s.rX90, err := s.rErr, adj := s.rAdj, variant := s.variant, fwver := s.fwver
            ts := s.rTs }] } ∧
      (s.num = .exact → pressure = .exact (pval s.rUnit s.rM))) ∧
    (s.rvalid = false → exec .snap s = .next { s with resp := [.error .noData] } ∧
      (Response.error .noData).st = some 3)

/-- R151: VAR answers the variant and its lock; no state is written. -/
def Obligations.VariantQuery : Prop :=
  ∀ s : State, exec .var s = .next { s with resp := [.var s.variant s.vlock] }

/-- R152: VER answers the firmware version byte and its validity, and the version is `FWVER / 20` when FWVALID = 1
and has no value otherwise; no state is written. -/
def Obligations.VersionQuery : Prop :=
  ∀ s : State, exec .ver s = .next { s with resp := [.ver s.fwvalid s.fwver] } ∧
    firmwareVersion s = if s.fwvalid = true then some ((s.fwver.toNat : Rat) / 20) else none

/-- R20, R153: STAT answers the status word, field by field, and HCNT; no state is written. -/
def Obligations.StatusWordLayout : Prop :=
  ∀ s : State, s.hcnt ≤ 65535 → ∃ (w h : BitVec 16), exec .stat s = .next { s with resp := [.stat w h] } ∧
    h.toNat = s.hcnt ∧
    w.getLsbD 0 = s.rvalid ∧ w.getLsbD 1 = s.vlock ∧ w.extractLsb' 2 2 = s.variant.code ∧
    w.getLsbD 4 = s.fwvalid ∧ w.getLsbD 5 = s.ferr ∧ w.getLsbD 6 = s.derr ∧
    w.extractLsb' 7 2 = s.dfield ∧ w.getLsbD 9 = s.tmis ∧ w.extractLsb' 10 6 = 0

/-- R30: no operation of a caller but CLR and RST writes state. -/
def Obligations.CallersOnlyRead : Prop :=
  ∀ (s s' : State) (w : QueryWord) (rest : List PortWord),
    s.pending = .query w :: rest → decode (.query w) ≠ .ok .clr → decode (.query w) ≠ .ok .rst →
    step s = .next s' → ∃ r, s' = { s with pending := rest, resp := [r] }

/-! ### The command encoder -/

/-- R160: ENC with LEN = 3 builds the command frame; any other LEN is CommandConstructionError, whatever the
payload. No state is written. -/
def Obligations.EncodeBuildsCommandFrame : Prop :=
  ∀ (len : BitVec 4) (p0 p1 p2 : Byte) (s : State),
    (len = 3 → exec (.enc len p0 p1 p2) s = .next
      { s with resp := [.enc [0x03, p0, p1, p2, p0 + p1 + p2]] }) ∧
    (len ≠ 3 → exec (.enc len p0 p1 p2) s = .next { s with resp := [.error .commandConstruction] } ∧
      (Response.error .commandConstruction).st = some 4)

/-- The command frame produced (log 9): with the checksum of its payload it is the response of ENC with
LEN = 3, with any other last byte it is refused. -/
def Obligations.CommandFrameIsProducedByEnc : Prop :=
  ∀ (p0 p1 p2 c : Byte) (s : State),
    (c = p0 + p1 + p2 → ∃ s', exec (.cmdframe p0 p1 p2 c) s = .next s' ∧
      s' = { s with resp := [.enc [0x03, p0, p1, p2, c]] } ∧ exec (.enc 3 p0 p1 p2) s = .next s') ∧
    (c ≠ p0 + p1 + p2 → exec (.cmdframe p0 p1 p2 c) s = .refused .notCommandFrame)

/-! ### RST and the session -/

/-- R195, R196: RST sets every register to its reset value and leaves the history cells and the parameters alone;
the hardware reset input has the same effect. -/
def Obligations.RstStartsSession : Prop :=
  ∀ s : State,
    exec .rst s = .next
      { State.reset with
        hist := s.hist, histCap := s.histCap, wTs := s.wTs, num := s.num, pending := s.pending
        resp := [.rst] } ∧
    (∀ s' : State, exec .rst s = .next s' → exec .rst s' = .next s') ∧
    ∀ rest, s.pending = .resetInput :: rest → step s = exec .rst { s with pending := rest }

/-- R44: CLR is idempotent, and a query operation repeated without an operation between answers the same. -/
def Obligations.QueriesRepeat : Prop :=
  ∀ (i : Instr) (s s' : State),
    i ∈ [.clr, .snap, .var, .ver, .stat] ∨ (∃ n, i = .avg n) ∨ (∃ l p q r, i = .enc l p q r) →
    exec i s = .next s' → exec i s' = .next s'

/-- R15, R18, R49 (d): once locked, the variant and the firmware version stay the same in every step that is
not a reset. -/
def Obligations.LockHoldsUntilReset : Prop :=
  ∀ s s' : State, s.vlock = true → s.fwvalid = true →
    (∀ p ∈ s.pending.head?, startsSession p = false) → step s = .next s' →
    s'.vlock = true ∧ s'.variant = s.variant ∧ s'.fwvalid = true ∧ s'.fwver = s.fwver

/-- R10, R19: FERR, DERR, DFIELD and TMIS are cleared only by reset: set, they stay set in every step that is not a
reset. (A later DecodeError may give DFIELD another field's code, never 0.) -/
def Obligations.StickyFlagsClearOnlyByReset : Prop :=
  ∀ s s' : State, (∀ p ∈ s.pending.head?, startsSession p = false) → step s = .next s' →
    (s.ferr = true → s'.ferr = true) ∧ (s.derr = true → s'.derr = true) ∧
    (s.dfield ≠ 0 → s'.dfield ≠ 0) ∧ (s.tmis = true → s'.tmis = true)

/-- R125 (a): an RXB step appends exactly one sample to the history when it reports READING, and none
otherwise. The sample's TIME value is the one the port takes, of W_TS bits (log 4: DESIGN CHOICE). -/
def Obligations.OneSamplePerReading : Prop :=
  ∀ (b : Byte) (t : Time) (s s' : State) (ev : RxEvent) (nd : Nat), s.BufInv → s.RingInv →
    exec (.rxb b t) s = .next s' → s'.resp = [.rx ev nd] →
    ((∃ mis, ev = .reading mis) →
      histSeq s' = (if s.hcnt = s.histCap then (histSeq s).drop 1 else histSeq s) ++
        [some ⟨t % 2 ^ s.wTs, s'.rUnit, s'.rM⟩]) ∧
    ((∀ mis, ev ≠ .reading mis) → histSeq s' = histSeq s)

/-! ### The telemetry frame received whole -/

/-- The step of the row FRAME (log 8) is the nine RXB steps of its bytes, in order, with their responses. -/
def Obligations.FrameIsNineReceives : Prop :=
  ∀ (st eb hi lo vb tb c : Byte) (t : Time) (s : State),
    exec (.frame st eb hi lo vb tb c t) s = .next
      { (receiveAll t [0x07, 0x05, st, eb, hi, lo, vb, tb, c] s).1 with
        resp := (receiveAll t [0x07, 0x05, st, eb, hi, lo, vb, tb, c] s).2 }

/-- A valid telemetry frame received whole into an empty buffer is decoded and committed, or rejected with the field
that failed, as R110, R123 and R124 say of its last byte. FRAME as one step is the model's choice (log 8: DESIGN
CHOICE), and so is taking the W_TS bits of the TIME value (log 4: DESIGN CHOICE). -/
def Obligations.FrameIsDecoded : Prop :=
  ∀ (st eb hi lo vb tb c : Byte) (t : Time) (s : State),
    s.rxbuf = [] → c = 0x05 + st + eb + hi + lo + vb + tb →
    ∃ (s' : State) (ev : RxEvent),
      exec (.frame st eb hi lo vb tb c t) s = .next s' ∧
      s' = { (decodeFrame [0x07, 0x05, st, eb, hi, lo, vb, tb, c] (t % 2 ^ s.wTs) s).1 with
             sync := true, resp := List.replicate 8 (.rx .none 0) ++ [.rx ev 0] } ∧
      ev = (decodeFrame [0x07, 0x05, st, eb, hi, lo, vb, tb, c] (t % 2 ^ s.wTs) s).2

/-- R85's expansion of RXFRAME, offered word by word, leaves what the row FRAME leaves in one step, which is the
model's choice (log 8: DESIGN CHOICE). -/
def Obligations.RxFrameExpansionAgrees : Prop :=
  ∀ (st eb hi lo vb tb : Byte) (t : Time) (s : State) (rest : List PortWord),
    s.pending = (expandRxFrame st eb hi lo vb tb t).map encode ++ rest →
    ∃ u v : State, Host.Core.run Sys2Proof.core 9 s = .next u ∧
      exec (.frame st eb hi lo vb tb (chk8 [0x05, st, eb, hi, lo, vb, tb]) t) { s with pending := rest }
        = .next v ∧
      u = { v with resp := u.resp } ∧ v.resp.getLast? = u.resp.getLast?

/-! ### The parameters -/

/-- HIST_CAP, W_TS and NUM are parameters (R6, R25): no step changes one. -/
def Obligations.ParametersNeverChange : Prop :=
  ∀ s s' : State, step s = .next s' → s'.histCap = s.histCap ∧ s'.wTs = s.wTs ∧ s'.num = s.num

/-- R119, R143 with NUM a finite-precision format: PRESSURE is a configuration function of (u, m), MEAN one of the
list of (u, m) pairs of the averaged samples in newest-first order. The functions `Config.portPressure` and
`Config.portMean`, of which nothing is known, and the bits as a number are the model's form (log 5: DESIGN
CHOICE). -/
def Obligations.FiniteNumbersAreConfigurationFunctions : Prop :=
  ∀ s : State, s.num = .finite →
    (s.rvalid = true → ∃ r : Snapshot, exec .snap s = .next { s with resp := [.snap r] } ∧
      r.pressure = .finite (Config.portPressure s.rUnit.code s.rM)) ∧
    (∀ n : BitVec 16, s.RingInv → 0 < min n.toNat s.hcnt →
      ∃ (xs : List Sample) (used : BitVec 16),
        (histSeq s).drop (s.hcnt - min n.toNat s.hcnt) = xs.map some ∧ used.toNat = min n.toNat s.hcnt ∧
        exec (.avg n) s = .next
          { s with resp := [.avg (.finite (Config.portMean (xs.reverse.map fun x => (x.unit.code, x.m)))) used] })

/-- The receive port has W_TS wires for TIME: a value of more bits acts as its low W_TS bits, and one of W_TS bits
as itself (the model's choice, log 4: DESIGN CHOICE). -/
def Obligations.TimeInputHasItsWidth : Prop :=
  ∀ (t : Time) (s : State),
    (∀ b, exec (.rxb b t) s = exec (.rxb b (t % 2 ^ s.wTs)) s) ∧
    (∀ st eb hi lo vb tb c, exec (.frame st eb hi lo vb tb c t) s =
      exec (.frame st eb hi lo vb tb c (t % 2 ^ s.wTs)) s) ∧
    (t < 2 ^ s.wTs → t % 2 ^ s.wTs = t)
end

