-- ==== Sys2Proof/Laws/Memory.lean ====
section
/-! SUPPORT. The laws of the history cells: a read after a write, and the canonical form. -/

namespace Sys2Proof.Machine

@[simp] theorem Memory.read_nil (i : Nat) : Memory.read [] i = none := rfl

theorem Memory.read_cons (j : Nat) (x : Sample) (m : Memory) (i : Nat) :
    Memory.read ((j, x) :: m) i = if i = j then some x else Memory.read m i := rfl

/-- A read of the cell just written gives the sample written. -/
theorem Memory.read_write_self (m : Memory) (i : Nat) (x : Sample) : (m.write i x).read i = some x := by
  induction m with
  | nil => simp [Memory.write, Memory.read_cons]
  | cons e m ih =>
    obtain ⟨j, y⟩ := e
    simp only [Memory.write]
    split
    · simp [Memory.read_cons]
    · split
      · simp [Memory.read_cons]
      · rename_i h; simp [Memory.read_cons, h, ih]

/-- A write leaves every other cell alone. -/
theorem Memory.read_write_ne (m : Memory) {i k : Nat} (x : Sample) (h : k ≠ i) :
    (m.write i x).read k = m.read k := by
  induction m with
  | nil => simp [Memory.write, Memory.read_cons, h]
  | cons e m ih =>
    obtain ⟨j, y⟩ := e
    simp only [Memory.write]
    split
    · simp [Memory.read_cons, h]
    · split
      · rename_i hij; subst hij; simp [Memory.read_cons, h]
      · simp [Memory.read_cons, ih]

theorem Memory.read_write (m : Memory) (i k : Nat) (x : Sample) :
    (m.write i x).read k = if k = i then some x else m.read k := by
  split
  · rename_i h; subst h; exact m.read_write_self k x
  · rename_i h; exact m.read_write_ne x h

/-- The canonical form says exactly that the indices are strictly rising. -/
theorem Memory.wf_iff (m : Memory) : m.wf = true ↔ (m.map Prod.fst).IsChain (· < ·) := by
  induction m with
  | nil => simp [Memory.wf]
  | cons e m ih =>
    cases m with
    | nil => simp [Memory.wf]
    | cons e' m => simp [Memory.wf, ih]

theorem Memory.wf_tail {e : Nat × Sample} {m : Memory} (h : Memory.wf (e :: m) = true) : m.wf = true := by
  cases m with
  | nil => rfl
  | cons e' m => simp only [Memory.wf, Bool.and_eq_true] at h; exact h.2

/-- Every memory operation keeps the canonical form: the one that writes does. -/
theorem Memory.write_wf (m : Memory) (i : Nat) (x : Sample) (h : m.wf = true) : (m.write i x).wf = true := by
  induction m with
  | nil => rfl
  | cons e m ih =>
    obtain ⟨j, y⟩ := e
    have ih' := ih (Memory.wf_tail h)
    simp only [Memory.write]
    split
    · rename_i hij
      simp [Memory.wf, hij, h]
    · split
      · rename_i hij; subst hij
        cases m with
        | nil => rfl
        | cons e' m => simpa [Memory.wf] using h
      · rename_i h1 h2
        cases m with
        | nil => simp only [Memory.write, Memory.wf, Bool.and_true, decide_eq_true_eq]; omega
        | cons e' m =>
          obtain ⟨k, z⟩ := e'
          have hjk : j < k := by simp only [Memory.wf, Bool.and_eq_true, decide_eq_true_eq] at h; exact h.1
          revert ih'
          simp only [Memory.write]
          split
          · intro ih'; simp only [Memory.wf, Bool.and_eq_true, decide_eq_true_eq] at ih' ⊢
            exact ⟨by omega, ih'⟩
          · split
            · intro ih'; simp only [Memory.wf, Bool.and_eq_true, decide_eq_true_eq] at ih' ⊢
              rename_i h3; subst h3
              cases m with
              | nil => exact ⟨hjk, rfl⟩
              | cons _ _ => exact ⟨hjk, ih'⟩
            · intro ih'
              simp only [Memory.wf, Bool.and_eq_true, decide_eq_true_eq]
              exact ⟨hjk, ih'⟩

/-- The memory after reset is in canonical form. -/
theorem reset_hist_wf : State.reset.hist.wf = true := rfl

end Sys2Proof.Machine
end

