-- ==== Sys2Proof/Laws/State.lean ====
section
/-! SUPPORT. One lemma per field per named update of the state, so that no proof unfolds a record update. -/

namespace Sys2Proof.Machine

/-! ### respond -/

@[simp] theorem respond_rxbuf (rs : List Response) (s : State) :
    (respond rs s).rxbuf = s.rxbuf := rfl
@[simp] theorem respond_sync (rs : List Response) (s : State) :
    (respond rs s).sync = s.sync := rfl
@[simp] theorem respond_variant (rs : List Response) (s : State) :
    (respond rs s).variant = s.variant := rfl
@[simp] theorem respond_vlock (rs : List Response) (s : State) :
    (respond rs s).vlock = s.vlock := rfl
@[simp] theorem respond_rvalid (rs : List Response) (s : State) :
    (respond rs s).rvalid = s.rvalid := rfl
@[simp] theorem respond_rUnit (rs : List Response) (s : State) :
    (respond rs s).rUnit = s.rUnit := rfl
@[simp] theorem respond_rM (rs : List Response) (s : State) :
    (respond rs s).rM = s.rM := rfl
@[simp] theorem respond_rEmis (rs : List Response) (s : State) :
    (respond rs s).rEmis = s.rEmis := rfl
@[simp] theorem respond_rTog (rs : List Response) (s : State) :
    (respond rs s).rTog = s.rTog := rfl
@[simp] theorem respond_rX90 (rs : List Response) (s : State) :
    (respond rs s).rX90 = s.rX90 := rfl
@[simp] theorem respond_rErr (rs : List Response) (s : State) :
    (respond rs s).rErr = s.rErr := rfl
@[simp] theorem respond_rAdj (rs : List Response) (s : State) :
    (respond rs s).rAdj = s.rAdj := rfl
@[simp] theorem respond_rTs (rs : List Response) (s : State) :
    (respond rs s).rTs = s.rTs := rfl
@[simp] theorem respond_fwvalid (rs : List Response) (s : State) :
    (respond rs s).fwvalid = s.fwvalid := rfl
@[simp] theorem respond_fwver (rs : List Response) (s : State) :
    (respond rs s).fwver = s.fwver := rfl
@[simp] theorem respond_ferr (rs : List Response) (s : State) :
    (respond rs s).ferr = s.ferr := rfl
@[simp] theorem respond_derr (rs : List Response) (s : State) :
    (respond rs s).derr = s.derr := rfl
@[simp] theorem respond_dfield (rs : List Response) (s : State) :
    (respond rs s).dfield = s.dfield := rfl
@[simp] theorem respond_tmis (rs : List Response) (s : State) :
    (respond rs s).tmis = s.tmis := rfl
@[simp] theorem respond_hist (rs : List Response) (s : State) :
    (respond rs s).hist = s.hist := rfl
@[simp] theorem respond_hwr (rs : List Response) (s : State) :
    (respond rs s).hwr = s.hwr := rfl
@[simp] theorem respond_hcnt (rs : List Response) (s : State) :
    (respond rs s).hcnt = s.hcnt := rfl
@[simp] theorem respond_histCap (rs : List Response) (s : State) :
    (respond rs s).histCap = s.histCap := rfl
@[simp] theorem respond_wTs (rs : List Response) (s : State) :
    (respond rs s).wTs = s.wTs := rfl
@[simp] theorem respond_num (rs : List Response) (s : State) :
    (respond rs s).num = s.num := rfl
@[simp] theorem respond_pending (rs : List Response) (s : State) :
    (respond rs s).pending = s.pending := rfl
@[simp] theorem respond_resp (rs : List Response) (s : State) :
    (respond rs s).resp = rs := rfl

/-! ### append -/

@[simp] theorem append_rxbuf (x : Sample) (s : State) :
    (append x s).rxbuf = s.rxbuf := rfl
@[simp] theorem append_sync (x : Sample) (s : State) :
    (append x s).sync = s.sync := rfl
@[simp] theorem append_variant (x : Sample) (s : State) :
    (append x s).variant = s.variant := rfl
@[simp] theorem append_vlock (x : Sample) (s : State) :
    (append x s).vlock = s.vlock := rfl
@[simp] theorem append_rvalid (x : Sample) (s : State) :
    (append x s).rvalid = s.rvalid := rfl
@[simp] theorem append_rUnit (x : Sample) (s : State) :
    (append x s).rUnit = s.rUnit := rfl
@[simp] theorem append_rM (x : Sample) (s : State) :
    (append x s).rM = s.rM := rfl
@[simp] theorem append_rEmis (x : Sample) (s : State) :
    (append x s).rEmis = s.rEmis := rfl
@[simp] theorem append_rTog (x : Sample) (s : State) :
    (append x s).rTog = s.rTog := rfl
@[simp] theorem append_rX90 (x : Sample) (s : State) :
    (append x s).rX90 = s.rX90 := rfl
@[simp] theorem append_rErr (x : Sample) (s : State) :
    (append x s).rErr = s.rErr := rfl
@[simp] theorem append_rAdj (x : Sample) (s : State) :
    (append x s).rAdj = s.rAdj := rfl
@[simp] theorem append_rTs (x : Sample) (s : State) :
    (append x s).rTs = s.rTs := rfl
@[simp] theorem append_fwvalid (x : Sample) (s : State) :
    (append x s).fwvalid = s.fwvalid := rfl
@[simp] theorem append_fwver (x : Sample) (s : State) :
    (append x s).fwver = s.fwver := rfl
@[simp] theorem append_ferr (x : Sample) (s : State) :
    (append x s).ferr = s.ferr := rfl
@[simp] theorem append_derr (x : Sample) (s : State) :
    (append x s).derr = s.derr := rfl
@[simp] theorem append_dfield (x : Sample) (s : State) :
    (append x s).dfield = s.dfield := rfl
@[simp] theorem append_tmis (x : Sample) (s : State) :
    (append x s).tmis = s.tmis := rfl
@[simp] theorem append_hist (x : Sample) (s : State) :
    (append x s).hist = s.hist.write (modCap s s.hwr) x := rfl
@[simp] theorem append_hwr (x : Sample) (s : State) :
    (append x s).hwr = modCap s (s.hwr + 1) := rfl
@[simp] theorem append_hcnt (x : Sample) (s : State) :
    (append x s).hcnt = if s.hcnt < s.histCap then s.hcnt + 1 else s.hcnt := rfl
@[simp] theorem append_histCap (x : Sample) (s : State) :
    (append x s).histCap = s.histCap := rfl
@[simp] theorem append_wTs (x : Sample) (s : State) :
    (append x s).wTs = s.wTs := rfl
@[simp] theorem append_num (x : Sample) (s : State) :
    (append x s).num = s.num := rfl
@[simp] theorem append_pending (x : Sample) (s : State) :
    (append x s).pending = s.pending := rfl
@[simp] theorem append_resp (x : Sample) (s : State) :
    (append x s).resp = s.resp := rfl

/-! ### commit -/

@[simp] theorem commit_rxbuf (d : Decoded) (t : Time) (s : State) :
    (commit d t s).rxbuf = s.rxbuf := rfl
@[simp] theorem commit_sync (d : Decoded) (t : Time) (s : State) :
    (commit d t s).sync = s.sync := rfl
@[simp] theorem commit_variant (d : Decoded) (t : Time) (s : State) :
    (commit d t s).variant = if s.vlock then s.variant else d.v := rfl
@[simp] theorem commit_vlock (d : Decoded) (t : Time) (s : State) :
    (commit d t s).vlock = true := rfl
@[simp] theorem commit_rvalid (d : Decoded) (t : Time) (s : State) :
    (commit d t s).rvalid = true := rfl
@[simp] theorem commit_rUnit (d : Decoded) (t : Time) (s : State) :
    (commit d t s).rUnit = d.unit := rfl
@[simp] theorem commit_rM (d : Decoded) (t : Time) (s : State) :
    (commit d t s).rM = d.m := rfl
@[simp] theorem commit_rEmis (d : Decoded) (t : Time) (s : State) :
    (commit d t s).rEmis = d.emis := rfl
@[simp] theorem commit_rTog (d : Decoded) (t : Time) (s : State) :
    (commit d t s).rTog = d.tog := rfl
@[simp] theorem commit_rX90 (d : Decoded) (t : Time) (s : State) :
    (commit d t s).rX90 = d.x90 := rfl
@[simp] theorem commit_rErr (d : Decoded) (t : Time) (s : State) :
    (commit d t s).rErr = d.ec := rfl
@[simp] theorem commit_rAdj (d : Decoded) (t : Time) (s : State) :
    (commit d t s).rAdj = d.adj := rfl
@[simp] theorem commit_rTs (d : Decoded) (t : Time) (s : State) :
    (commit d t s).rTs = t := rfl
@[simp] theorem commit_fwvalid (d : Decoded) (t : Time) (s : State) :
    (commit d t s).fwvalid = true := rfl
@[simp] theorem commit_fwver (d : Decoded) (t : Time) (s : State) :
    (commit d t s).fwver = if s.fwvalid then s.fwver else d.vb := rfl
@[simp] theorem commit_ferr (d : Decoded) (t : Time) (s : State) :
    (commit d t s).ferr = s.ferr := rfl
@[simp] theorem commit_derr (d : Decoded) (t : Time) (s : State) :
    (commit d t s).derr = s.derr := rfl
@[simp] theorem commit_dfield (d : Decoded) (t : Time) (s : State) :
    (commit d t s).dfield = s.dfield := rfl
@[simp] theorem commit_tmis (d : Decoded) (t : Time) (s : State) :
    (commit d t s).tmis = (s.tmis || d.mis) := rfl
@[simp] theorem commit_hist (d : Decoded) (t : Time) (s : State) :
    (commit d t s).hist = s.hist.write (modCap s s.hwr) ⟨t, d.unit, d.m⟩ := rfl
@[simp] theorem commit_hwr (d : Decoded) (t : Time) (s : State) :
    (commit d t s).hwr = modCap s (s.hwr + 1) := rfl
@[simp] theorem commit_hcnt (d : Decoded) (t : Time) (s : State) :
    (commit d t s).hcnt = if s.hcnt < s.histCap then s.hcnt + 1 else s.hcnt := rfl
@[simp] theorem commit_histCap (d : Decoded) (t : Time) (s : State) :
    (commit d t s).histCap = s.histCap := rfl
@[simp] theorem commit_wTs (d : Decoded) (t : Time) (s : State) :
    (commit d t s).wTs = s.wTs := rfl
@[simp] theorem commit_num (d : Decoded) (t : Time) (s : State) :
    (commit d t s).num = s.num := rfl
@[simp] theorem commit_pending (d : Decoded) (t : Time) (s : State) :
    (commit d t s).pending = s.pending := rfl
@[simp] theorem commit_resp (d : Decoded) (t : Time) (s : State) :
    (commit d t s).resp = s.resp := rfl

/-! ### startSession -/

@[simp] theorem startSession_rxbuf (s : State) :
    (startSession s).rxbuf = [] := rfl
@[simp] theorem startSession_sync (s : State) :
    (startSession s).sync = false := rfl
@[simp] theorem startSession_variant (s : State) :
    (startSession s).variant = .none := rfl
@[simp] theorem startSession_vlock (s : State) :
    (startSession s).vlock = false := rfl
@[simp] theorem startSession_rvalid (s : State) :
    (startSession s).rvalid = false := rfl
@[simp] theorem startSession_rUnit (s : State) :
    (startSession s).rUnit = .mbar := rfl
@[simp] theorem startSession_rM (s : State) :
    (startSession s).rM = 0 := rfl
@[simp] theorem startSession_rEmis (s : State) :
    (startSession s).rEmis = .off := rfl
@[simp] theorem startSession_rTog (s : State) :
    (startSession s).rTog = false := rfl
@[simp] theorem startSession_rX90 (s : State) :
    (startSession s).rX90 = false := rfl
@[simp] theorem startSession_rErr (s : State) :
    (startSession s).rErr = .noError := rfl
@[simp] theorem startSession_rAdj (s : State) :
    (startSession s).rAdj = false := rfl
@[simp] theorem startSession_rTs (s : State) :
    (startSession s).rTs = 0 := rfl
@[simp] theorem startSession_fwvalid (s : State) :
    (startSession s).fwvalid = false := rfl
@[simp] theorem startSession_fwver (s : State) :
    (startSession s).fwver = 0 := rfl
@[simp] theorem startSession_ferr (s : State) :
    (startSession s).ferr = false := rfl
@[simp] theorem startSession_derr (s : State) :
    (startSession s).derr = false := rfl
@[simp] theorem startSession_dfield (s : State) :
    (startSession s).dfield = 0 := rfl
@[simp] theorem startSession_tmis (s : State) :
    (startSession s).tmis = false := rfl
@[simp] theorem startSession_hist (s : State) :
    (startSession s).hist = s.hist := rfl
@[simp] theorem startSession_hwr (s : State) :
    (startSession s).hwr = 0 := rfl
@[simp] theorem startSession_hcnt (s : State) :
    (startSession s).hcnt = 0 := rfl
@[simp] theorem startSession_histCap (s : State) :
    (startSession s).histCap = s.histCap := rfl
@[simp] theorem startSession_wTs (s : State) :
    (startSession s).wTs = s.wTs := rfl
@[simp] theorem startSession_num (s : State) :
    (startSession s).num = s.num := rfl
@[simp] theorem startSession_pending (s : State) :
    (startSession s).pending = s.pending := rfl
@[simp] theorem startSession_resp (s : State) :
    (startSession s).resp = s.resp := rfl

/-! ### taking an exception -/

@[simp] theorem takeException_framing (c : Cause) (s : State) :
    takeException (.framing c) s = { s with rxbuf := s.rxbuf.drop 1, sync := false, ferr := true } := rfl
@[simp] theorem takeException_decode (f : DecodeField) (s : State) :
    takeException (.decode f) s = { s with derr := true, dfield := f.code } := rfl
@[simp] theorem takeException_noData (s : State) : takeException .noData s = s := rfl
@[simp] theorem takeException_commandConstruction (s : State) : takeException .commandConstruction s = s := rfl
@[simp] theorem takeException_illegalOperation (s : State) : takeException .illegalOperation s = s := rfl

end Sys2Proof.Machine
end

