-- ==== Sys2Proof/Laws/Ops.lean ====
section
/-! SUPPORT. What each shared operation can do, said once. -/

namespace Sys2Proof.Machine

/-- An index taken modulo the capacity is an index of a cell. -/
theorem modCap_lt (s : State) (k : Int) (h : 1 ≤ s.histCap) : modCap s k < s.histCap := by
  have h0 : (0 : Int) < (s.histCap : Int) := by omega
  have h1 := Int.emod_nonneg k (by omega : (s.histCap : Int) ≠ 0)
  have h2 := Int.emod_lt_of_pos k h0
  unfold modCap
  omega

/-- An index in range is its own remainder. -/
theorem modCap_of_lt (s : State) (i : Nat) (h : i < s.histCap) : modCap s i = i := by
  unfold modCap
  rw [Int.emod_eq_of_lt (by omega) (by omega)]
  rfl

theorem modCap_congr {s s' : State} (h : s.histCap = s'.histCap) (k : Int) : modCap s k = modCap s' k := by
  simp [modCap, h]

@[simp] theorem histSeq_length (s : State) : (histSeq s).length = s.hcnt := by simp [histSeq]

/-- Every entry of `hist()` is a read of its cell. -/
theorem histSeq_getElem (s : State) (j : Nat) (h : j < (histSeq s).length) :
    (histSeq s)[j] = s.hist.read (oldestCell s j) := by
  simp [histSeq]

/-- The newest-first cell of AVG and the oldest-first cell of `hist()` are the same cell. -/
theorem newestCell_eq_oldestCell (s : State) (i : Nat) (h : i < s.hcnt) :
    newestCell s i = oldestCell s (s.hcnt - 1 - i) := by
  unfold newestCell oldestCell
  congr 1
  omega

/-! The TIME input: W_TS bits, and a value that has them is taken as it is. -/

theorem timeInput_lt (s : State) (t : Time) : timeInput s t < 2 ^ s.wTs := Nat.mod_lt _ (Nat.two_pow_pos _)

theorem timeInput_of_lt {s : State} {t : Time} (h : t < 2 ^ s.wTs) : timeInput s t = t := Nat.mod_eq_of_lt h

theorem timeInput_congr {s s' : State} (h : s.wTs = s'.wTs) (t : Time) : timeInput s t = timeInput s' t := by
  simp [timeInput, h]

/-- What an exception a caller sees does: it sets the response and nothing else. -/
theorem raiseToCaller_eq (e : Exc) (s : State)
    (h : e = .noData ∨ e = .commandConstruction ∨ e = .illegalOperation) :
    raiseToCaller e s = { s with resp := [.error e] } := by
  obtain rfl | rfl | rfl := h <;> rfl

end Sys2Proof.Machine
end

