-- ==== Sys2Proof/Laws/Decoder.lean ====
section
/-! SUPPORT. What DECODE can do: reject the frame and set DERR and DFIELD, or commit a reading. -/

namespace Sys2Proof.Machine

/-- The two outcomes of DECODE (42_decode R110, R123, R124). -/
theorem decodeFrame_cases (f : List Byte) (t : Time) (s : State) :
    (∃ e, decodeFields s.variant s.vlock f = .error e ∧
      decodeFrame f t s = ({ s with derr := true, dfield := e.code }, .decode e)) ∨
    (∃ d, decodeFields s.variant s.vlock f = .ok d ∧ decodeFrame f t s = (commit d t s, .reading d.mis)) := by
  cases h : decodeFields s.variant s.vlock f with
  | error e => exact .inl ⟨e, rfl, by simp [decodeFrame, h]⟩
  | ok d => exact .inr ⟨d, rfl, by simp [decodeFrame, h]⟩

/-! DECODE never touches the receive buffer, the synchronizer, or what is not the block's state. -/

@[simp] theorem decodeFrame_rxbuf (f : List Byte) (t : Time) (s : State) : (decodeFrame f t s).1.rxbuf = s.rxbuf := by
  obtain ⟨e, -, h⟩ | ⟨d, -, h⟩ := decodeFrame_cases f t s <;> simp [h]

@[simp] theorem decodeFrame_sync (f : List Byte) (t : Time) (s : State) : (decodeFrame f t s).1.sync = s.sync := by
  obtain ⟨e, -, h⟩ | ⟨d, -, h⟩ := decodeFrame_cases f t s <;> simp [h]

@[simp] theorem decodeFrame_ferr (f : List Byte) (t : Time) (s : State) : (decodeFrame f t s).1.ferr = s.ferr := by
  obtain ⟨e, -, h⟩ | ⟨d, -, h⟩ := decodeFrame_cases f t s <;> simp [h]

@[simp] theorem decodeFrame_histCap (f : List Byte) (t : Time) (s : State) :
    (decodeFrame f t s).1.histCap = s.histCap := by
  obtain ⟨e, -, h⟩ | ⟨d, -, h⟩ := decodeFrame_cases f t s <;> simp [h]

@[simp] theorem decodeFrame_wTs (f : List Byte) (t : Time) (s : State) : (decodeFrame f t s).1.wTs = s.wTs := by
  obtain ⟨e, -, h⟩ | ⟨d, -, h⟩ := decodeFrame_cases f t s <;> simp [h]

@[simp] theorem decodeFrame_num (f : List Byte) (t : Time) (s : State) : (decodeFrame f t s).1.num = s.num := by
  obtain ⟨e, -, h⟩ | ⟨d, -, h⟩ := decodeFrame_cases f t s <;> simp [h]

@[simp] theorem decodeFrame_pending (f : List Byte) (t : Time) (s : State) :
    (decodeFrame f t s).1.pending = s.pending := by
  obtain ⟨e, -, h⟩ | ⟨d, -, h⟩ := decodeFrame_cases f t s <;> simp [h]

@[simp] theorem decodeFrame_resp (f : List Byte) (t : Time) (s : State) : (decodeFrame f t s).1.resp = s.resp := by
  obtain ⟨e, -, h⟩ | ⟨d, -, h⟩ := decodeFrame_cases f t s <;> simp [h]

/-- What a successful decode of the fields says of the frame (42_decode R110 to R122). -/
theorem decodeFields_ok {v : Variant} {l : Bool} {f : List Byte} {d : Decoded}
    (h : decodeFields v l f = .ok d) :
    unitOf (byteAt f 2) = some d.unit ∧
    errFields v (byteAt f 2) (byteAt f 3) = some (d.ec, d.adj, d.x90) ∧
    d.v = typeTable (byteAt f 7) ∧ (l = false → d.v ≠ .none) ∧
    d.mis = (l && decide (typeTable (byteAt f 7) ≠ v)) ∧
    d.m = magnitudeOf (byteAt f 4) (byteAt f 5) ∧ d.emis = emisOf (byteAt f 2) ∧
    d.tog = togOf (byteAt f 2) ∧ d.vb = byteAt f 6 := by
  unfold decodeFields at h
  split at h
  · cases h
  · split at h
    · cases h
    · split at h
      · cases h
      · rename_i hu _ _ _ _ he hn
        cases h
        refine ⟨hu, he, rfl, fun hl => ?_, rfl, rfl, rfl, rfl, rfl⟩
        exact fun hv => hn ⟨hl, hv⟩

end Sys2Proof.Machine
end

