-- ==== Sys2Proof/Laws/Framesync.lean ====
section
/-! SUPPORT. What an RXB step can do: the turns of its loop, and the six cases of 41_framesync R105. -/

namespace Sys2Proof.Machine

/-! ### The scan -/

theorem scan_eq_none {buf : List Byte} : scan buf = none ↔ Config.mark0 ∉ buf := by
  simp [scan, List.findIdx?_eq_none_iff]
  constructor
  · intro h hm; exact h _ hm rfl
  · intro h x hx he; subst he; exact h hx

/-- The scan of a buffer whose first 0x07 stands after `pre`. -/
theorem scan_append {pre post : List Byte} (h : Config.mark0 ∉ pre) :
    scan (pre ++ Config.mark0 :: post) = some pre.length := by
  induction pre with
  | nil => simp [scan, List.findIdx?_cons]
  | cons a pre ih =>
    have ha : (a == Config.mark0) = false := by
      simp only [beq_eq_false_iff_ne]; rintro rfl; exact h (by simp)
    have := ih (fun hm => h (by simp [hm]))
    simp only [scan] at this ⊢
    simp [List.findIdx?_cons, ha, this]

theorem scan_eq_some {buf : List Byte} {k : Nat} (h : scan buf = some k) :
    k < buf.length ∧ buf.drop k = Config.mark0 :: buf.drop (k + 1) ∧ Config.mark0 ∉ buf.take k := by
  simp only [scan, List.findIdx?_eq_some_iff_getElem] at h
  obtain ⟨hk, he, hn⟩ := h
  refine ⟨hk, ?_, ?_⟩
  · rw [List.drop_eq_getElem_cons hk]; congr 1; simpa using he
  · intro hm
    obtain ⟨i, hi, hie⟩ := List.getElem_of_mem hm
    have hik : i < k := by simp at hi; omega
    have := hn i hik
    simp [List.getElem_take] at hie
    simp [hie] at this

/-! ### The turns of the loop -/

theorem rxLoop_zero (t : Time) (r : RxRun) : rxLoop t 0 r = r := rfl

/-- An unsynchronized buffer without 0x07 is discarded and the loop exits (41_framesync R99). -/
theorem rxLoop_discard {t : Time} {n : Nat} {r : RxRun} (hs : r.st.sync = false) (hk : scan r.st.rxbuf = none) :
    rxLoop t (n + 1) r =
      { r with st := { r.st with rxbuf := [] }, ndisc := r.ndisc + r.st.rxbuf.length } := by
  simp [rxLoop, hs, hk]

/-- An unsynchronized buffer with a 0x07 becomes synchronized at it (41_framesync R96). -/
theorem rxLoop_found {t : Time} {n k : Nat} {r : RxRun} (hs : r.st.sync = false) (hk : scan r.st.rxbuf = some k) :
    rxLoop t (n + 1) r =
      rxLoop t n
        { r with st := { r.st with rxbuf := r.st.rxbuf.drop k, sync := true }, ndisc := r.ndisc + k } := by
  simp [rxLoop, hs, hk]

/-- While synchronized with fewer than 9 bytes nothing happens (41_framesync R97). -/
theorem rxLoop_wait {t : Time} {n : Nat} {r : RxRun} (hs : r.st.sync = true) (hl : r.st.rxbuf.length < 9) :
    rxLoop t (n + 1) r = r := by
  simp [rxLoop, hs, Config.frameLen, hl]

/-- A valid candidate is consumed and handed to DECODE (41_framesync R97). -/
theorem rxLoop_valid {t : Time} {n : Nat} {r : RxRun} (hs : r.st.sync = true) (hl : ¬ r.st.rxbuf.length < 9)
    (hc : candidateCause (r.st.rxbuf.take 9) = none) :
    rxLoop t (n + 1) r =
      rxLoop t n
        { r with
          st := (decodeFrame (r.st.rxbuf.take 9) t { r.st with rxbuf := r.st.rxbuf.drop 9 }).1
          ev := (decodeFrame (r.st.rxbuf.take 9) t { r.st with rxbuf := r.st.rxbuf.drop 9 }).2 } := by
  simp [rxLoop, hs, Config.frameLen, hl, hc]

/-- An invalid candidate loses one byte and the synchronization (41_framesync R98). -/
theorem rxLoop_invalid {t : Time} {n : Nat} {r : RxRun} {c : Cause} (hs : r.st.sync = true)
    (hl : ¬ r.st.rxbuf.length < 9) (hc : candidateCause (r.st.rxbuf.take 9) = some c) :
    rxLoop t (n + 1) r =
      rxLoop t n { st := takeException (.framing c) r.st, ev := .framing c, ndisc := r.ndisc + 1 } := by
  simp [rxLoop, hs, Config.frameLen, hl, hc]

/-- A bound on the turns a run still takes. -/
def turnsLeft (r : RxRun) : Nat := 2 * r.st.rxbuf.length + if r.st.sync then 0 else 1

/-- Turns beyond the bound change nothing, so the bound of `rxTurns` is no restriction (log 13). -/
theorem rxLoop_enough (t : Time) (n : Nat) (r : RxRun) (h : turnsLeft r < n) :
    rxLoop t (n + 1) r = rxLoop t n r := by
  induction n generalizing r with
  | zero => omega
  | succ n ih =>
    cases hs : r.st.sync with
    | false =>
      cases hk : scan r.st.rxbuf with
      | none => rw [rxLoop_discard hs hk, rxLoop_discard hs hk]
      | some k =>
        rw [rxLoop_found hs hk, rxLoop_found hs hk]
        apply ih
        simp only [turnsLeft, hs, List.length_drop] at h ⊢
        simp at h ⊢
        omega
    | true =>
      by_cases hl : r.st.rxbuf.length < 9
      · rw [rxLoop_wait hs hl, rxLoop_wait hs hl]
      · cases hc : candidateCause (r.st.rxbuf.take 9) with
        | none =>
          rw [rxLoop_valid hs hl hc, rxLoop_valid hs hl hc]
          apply ih
          simp [turnsLeft, hs] at h ⊢
          omega
        | some c =>
          rw [rxLoop_invalid hs hl hc, rxLoop_invalid hs hl hc]
          apply ih
          simp [turnsLeft, hs] at h ⊢
          omega

/-! ### The six cases of an RXB step (41_framesync R105) -/

/-- RXB as a run of its loop with any number of turns above the bound. -/
theorem rxRun_eq (b : Byte) (t : Time) (s : State) :
    rxRun b t s =
      rxLoop t (2 * s.rxbuf.length + 3 + 1) ⟨{ s with rxbuf := s.rxbuf ++ [b] }, .none, 0⟩ := by
  simp [rxRun, rxTurns, Nat.mul_add]

theorem rxRun_other {b : Byte} {t : Time} {s : State} (hs : s.sync = false) (he : s.rxbuf = [])
    (hb : b ≠ Config.mark0) :
    rxRun b t s = ⟨{ s with rxbuf := [] }, .none, 1⟩ := by
  rw [rxRun_eq, rxLoop_discard (by simp [hs]) (by simp [he, scan_eq_none, hb.symm])]
  simp [he]

theorem rxRun_mark {t : Time} {s : State} (hs : s.sync = false) (he : s.rxbuf = []) :
    rxRun Config.mark0 t s = ⟨{ s with rxbuf := [Config.mark0], sync := true }, .none, 0⟩ := by
  rw [rxRun_eq, rxLoop_found (k := 0) (by simp [hs]) (by simp [he, scan, List.findIdx?_cons]), he]
  simp only [List.length_nil]
  rw [rxLoop_wait (by simp) (by simp)]
  simp

theorem rxRun_wait {b : Byte} {t : Time} {s : State} (hs : s.sync = true) (hl : s.rxbuf.length < 8) :
    rxRun b t s = ⟨{ s with rxbuf := s.rxbuf ++ [b] }, .none, 0⟩ := by
  rw [rxRun_eq, rxLoop_wait (by simp [hs]) (by simp; omega)]

theorem rxRun_valid {b : Byte} {t : Time} {s : State} (hs : s.sync = true) (hl : s.rxbuf.length = 8)
    (hc : candidateCause (s.rxbuf ++ [b]) = none) :
    rxRun b t s =
      ⟨(decodeFrame (s.rxbuf ++ [b]) t { s with rxbuf := [] }).1,
       (decodeFrame (s.rxbuf ++ [b]) t { s with rxbuf := [] }).2, 0⟩ := by
  have ht : (s.rxbuf ++ [b]).take 9 = s.rxbuf ++ [b] := List.take_of_length_le (by simp [hl])
  have hd : (s.rxbuf ++ [b]).drop 9 = [] := List.drop_eq_nil_of_le (by simp [hl])
  rw [rxRun_eq, rxLoop_valid (by simp [hs]) (by simp [hl]) (by simpa only [ht] using hc)]
  simp only [ht, hd]
  rw [rxLoop_wait (by simp [hs]) (by simp)]

theorem rxRun_invalid_empty {b : Byte} {t : Time} {s : State} {c : Cause} (hs : s.sync = true)
    (hl : s.rxbuf.length = 8) (hc : candidateCause (s.rxbuf ++ [b]) = some c)
    (hn : Config.mark0 ∉ (s.rxbuf ++ [b]).drop 1) :
    rxRun b t s = ⟨{ s with rxbuf := [], sync := false, ferr := true }, .framing c, 9⟩ := by
  have ht : (s.rxbuf ++ [b]).take 9 = s.rxbuf ++ [b] := List.take_of_length_le (by simp [hl])
  rw [rxRun_eq, rxLoop_invalid (c := c) (by simp [hs]) (by simp [hl]) (by simpa only [ht] using hc)]
  simp only [takeException_framing]
  rw [rxLoop_discard (by simp) (by simpa [scan_eq_none] using hn)]
  simp [hl]

theorem rxRun_invalid_rescan {b : Byte} {t : Time} {s : State} {c : Cause} {pre post : List Byte}
    (hs : s.sync = true) (hl : s.rxbuf.length = 8) (hc : candidateCause (s.rxbuf ++ [b]) = some c)
    (hr : (s.rxbuf ++ [b]).drop 1 = pre ++ Config.mark0 :: post) (hn : Config.mark0 ∉ pre) :
    rxRun b t s =
      ⟨{ s with rxbuf := Config.mark0 :: post, sync := true, ferr := true }, .framing c, 1 + pre.length⟩ := by
  have ht : (s.rxbuf ++ [b]).take 9 = s.rxbuf ++ [b] := List.take_of_length_le (by simp [hl])
  have hlen : pre.length + (post.length + 1) = 8 := by
    have := congrArg List.length hr; simp [hl] at this; omega
  rw [rxRun_eq, rxLoop_invalid (c := c) (by simp [hs]) (by simp [hl]) (by simpa only [ht] using hc)]
  simp only [takeException_framing, hr]
  rw [rxLoop_found (k := pre.length) (by simp) (by simpa using scan_append hn)]
  simp only [List.drop_left]
  rw [show 2 * s.rxbuf.length + 2 = (2 * s.rxbuf.length + 1) + 1 from rfl,
    rxLoop_wait (by simp) (by simp; omega)]

/-! ### What no RXB step touches -/

theorem rxLoop_keeps (t : Time) (n : Nat) (r : RxRun) :
    (rxLoop t n r).st.histCap = r.st.histCap ∧ (rxLoop t n r).st.wTs = r.st.wTs ∧
      (rxLoop t n r).st.num = r.st.num ∧ (rxLoop t n r).st.pending = r.st.pending ∧
      (rxLoop t n r).st.resp = r.st.resp := by
  induction n generalizing r with
  | zero => exact ⟨rfl, rfl, rfl, rfl, rfl⟩
  | succ n ih =>
    cases hs : r.st.sync with
    | false =>
      cases hk : scan r.st.rxbuf with
      | none => simp [rxLoop_discard hs hk]
      | some k => rw [rxLoop_found hs hk]; simp [ih]
    | true =>
      by_cases hl : r.st.rxbuf.length < 9
      · simp [rxLoop_wait hs hl]
      · cases hc : candidateCause (r.st.rxbuf.take 9) with
        | none => rw [rxLoop_valid hs hl hc]; simp [ih]
        | some c => rw [rxLoop_invalid hs hl hc]; simp [ih]

@[simp] theorem rxRun_histCap (b : Byte) (t : Time) (s : State) : (rxRun b t s).st.histCap = s.histCap :=
  (rxLoop_keeps t _ _).1

@[simp] theorem rxRun_wTs (b : Byte) (t : Time) (s : State) : (rxRun b t s).st.wTs = s.wTs :=
  (rxLoop_keeps t _ _).2.1

@[simp] theorem rxRun_num (b : Byte) (t : Time) (s : State) : (rxRun b t s).st.num = s.num :=
  (rxLoop_keeps t _ _).2.2.1

@[simp] theorem rxRun_pending (b : Byte) (t : Time) (s : State) : (rxRun b t s).st.pending = s.pending :=
  (rxLoop_keeps t _ _).2.2.2.1

@[simp] theorem rxRun_resp (b : Byte) (t : Time) (s : State) : (rxRun b t s).st.resp = s.resp :=
  (rxLoop_keeps t _ _).2.2.2.2

/-- What no sequence of RXB steps touches. -/
theorem rxChunk_keeps (t : Time) (bs : List Byte) (s : State) :
    (rxChunk t bs s).1.histCap = s.histCap ∧ (rxChunk t bs s).1.wTs = s.wTs ∧
      (rxChunk t bs s).1.num = s.num ∧ (rxChunk t bs s).1.pending = s.pending := by
  induction bs generalizing s with
  | nil => exact ⟨rfl, rfl, rfl, rfl⟩
  | cons b bs ih => simp [rxChunk, ih]

end Sys2Proof.Machine
end

