-- ==== Sys2Proof/Laws/History.lean ====
section
/-! SUPPORT. What AVG reads: the newest samples of `hist()`. -/

namespace Sys2Proof.Machine

/-- A window that can be read holds the cells' samples, newest first. -/
theorem readWindow_eq_some {s : State} {i k : Nat} {xs : List Sample} :
    readWindow s i k = some xs ↔
      xs.length = k ∧ ∀ j (h : j < xs.length), s.hist.read (newestCell s (i + j)) = some xs[j] := by
  induction k generalizing i xs with
  | zero =>
    constructor
    · intro h; cases h; simp
    · rintro ⟨h, -⟩; rw [List.length_eq_zero_iff] at h; subst h; rfl
  | succ k ih =>
    simp only [readWindow]
    cases hr : s.hist.read (newestCell s i) with
    | none =>
      simp only [reduceCtorEq, false_iff, not_and]
      intro hl h
      have := h 0 (by omega)
      simp [hr] at this
    | some x =>
      simp only [Option.map_eq_some_iff]
      constructor
      · rintro ⟨ys, hy, rfl⟩
        obtain ⟨hl, hv⟩ := ih.1 hy
        refine ⟨by simp [hl], fun j h => ?_⟩
        cases j with
        | zero => simpa using hr
        | succ j =>
          have := hv j (by simpa using h)
          simpa [Nat.add_assoc, Nat.add_comm 1 j] using this
      · rintro ⟨hl, hv⟩
        cases xs with
        | nil => simp at hl
        | cons y ys =>
          have h0 := hv 0 (by simp)
          simp [hr] at h0
          subst h0
          refine ⟨ys, ih.2 ⟨by simpa using hl, fun j h => ?_⟩, rfl⟩
          have := hv (j + 1) (by simpa using h)
          simpa [Nat.add_assoc, Nat.add_comm 1 j] using this

end Sys2Proof.Machine
end

