-- ==== Sys2Proof/Laws/PerInstr.lean ====
section
/-! SUPPORT. Facts about every instruction as it is written, one lemma per constructor: its word fits the row of the opcode table that has its mnemonic. -/

namespace Sys2Proof.Laws.OpcodeRow

/-- The word of `i` has the width, the fixed bits and the mnemonic of a row of the opcode table. -/
def Statement (i : Instr) : Prop :=
  ∃ r ∈ opcodeTable, r.mnemonic = i.mnemonic ∧ (encode i).fits r = true

/-- A word that is `hi` above `n` further bits, masked to its high bits. -/
theorem and_mask_append {m n : Nat} (hi : BitVec m) (lo : BitVec n) :
    (hi ++ lo).toNat &&& ((2 ^ m - 1) <<< n) = hi.toNat <<< n := by
  apply Nat.eq_of_testBit_eq
  intro i
  simp only [Nat.testBit_and, BitVec.testBit_toNat, BitVec.getLsbD_append, Nat.testBit_shiftLeft,
    Nat.testBit_two_pow_sub_one]
  by_cases h : i < n
  · simp [h, Nat.not_le.mpr h]
  · simp only [h, Nat.not_lt.mp h, decide_true, Bool.true_and, ite_false]
    by_cases h2 : i - n < m
    · simp [h2]
    · simp [BitVec.getLsbD_of_ge hi (i - n) (by omega)]

theorem rxb (b : Byte) (t : Time) : Statement (.rxb b t) :=
  ⟨⟨"RXB", 8, 0x00, 0x00⟩, by simp [opcodeTable, queryMap], rfl, by simp [encode, PortWord.fits, PortWord.nbits]⟩

theorem avg (n : BitVec 16) : Statement (.avg n) := by
  refine ⟨⟨"AVG", 32, 0x10000000, 0xFFFF0000⟩, by simp [opcodeTable, queryMap], rfl, ?_⟩
  have h := and_mask_append (0x1000 : BitVec 16) n
  have e : ((0x1 : BitVec 4) ++ ((0 : BitVec 12) ++ n)) = ((0x1000 : BitVec 16) ++ n) := by
    rw [show (0x1000 : BitVec 16) = (0x1 : BitVec 4) ++ (0 : BitVec 12) from rfl, BitVec.append_assoc]; rfl
  simp only [PortWord.fits, encode, encodeQuery, PortWord.nbits, PortWord.value]
  rw [e]
  simpa using h

theorem clr : Statement .clr := ⟨⟨"CLR", 32, 0x20000000, 0xFFFFFFFF⟩, by decide⟩
theorem snap : Statement .snap := ⟨⟨"SNAP", 32, 0x30000000, 0xFFFFFFFF⟩, by decide⟩
theorem var : Statement .var := ⟨⟨"VAR", 32, 0x40000000, 0xFFFFFFFF⟩, by decide⟩
theorem ver : Statement .ver := ⟨⟨"VER", 32, 0x50000000, 0xFFFFFFFF⟩, by decide⟩
theorem stat : Statement .stat := ⟨⟨"STAT", 32, 0x60000000, 0xFFFFFFFF⟩, by decide⟩
theorem rst : Statement .rst := ⟨⟨"RST", 32, 0x80000000, 0xFFFFFFFF⟩, by decide⟩

theorem enc (len : BitVec 4) (p0 p1 p2 : Byte) : Statement (.enc len p0 p1 p2) := by
  refine ⟨⟨"ENC", 32, 0x70000000, 0xF0000000⟩, by simp [opcodeTable, queryMap], rfl, ?_⟩
  have h := and_mask_append (0x7 : BitVec 4) (len ++ p0 ++ p1 ++ p2)
  simp only [PortWord.fits, encode, encodeQuery, PortWord.nbits, PortWord.value]
  simpa using h

theorem frame (st eb hi lo vb tb c : Byte) (t : Time) : Statement (.frame st eb hi lo vb tb c t) := by
  refine ⟨⟨"FRAME", 72, 0x070500000000000000, 0xFFFF00000000000000⟩, by simp [opcodeTable, queryMap], rfl, ?_⟩
  have h := and_mask_append (Config.mark0 ++ Config.mark1) (st ++ eb ++ hi ++ lo ++ vb ++ tb ++ c)
  have e : Config.mark0 ++ Config.mark1 ++ st ++ eb ++ hi ++ lo ++ vb ++ tb ++ c
      = (Config.mark0 ++ Config.mark1) ++ (st ++ eb ++ hi ++ lo ++ vb ++ tb ++ c) := by
    simp only [BitVec.append_assoc, BitVec.cast_eq]
  simp only [PortWord.fits, encode, PortWord.nbits, PortWord.value]
  rw [e]
  simpa [Config.mark0, Config.mark1] using h

theorem cmdframe (p0 p1 p2 c : Byte) : Statement (.cmdframe p0 p1 p2 c) := by
  refine ⟨⟨"CMDFRAME", 40, 0x0300000000, 0xFF00000000⟩, by simp [opcodeTable, queryMap], rfl, ?_⟩
  have h := and_mask_append Config.cmdMark (p0 ++ p1 ++ p2 ++ c)
  have e : Config.cmdMark ++ p0 ++ p1 ++ p2 ++ c = Config.cmdMark ++ (p0 ++ p1 ++ p2 ++ c) := by
    simp only [BitVec.append_assoc, BitVec.cast_eq]
  simp only [PortWord.fits, encode, PortWord.nbits, PortWord.value]
  rw [e]
  simpa [Config.cmdMark] using h

end Sys2Proof.Laws.OpcodeRow
end

