-- ==== Sys2Proof/Laws/Step.lean ====
section
/-! SUPPORT. What a step can do, said once. -/

namespace Sys2Proof.Machine

theorem step_idle {s : State} (h : s.pending = []) : step s = .next s := by
  simp [step, accept, h]

theorem step_accept {s : State} {p : PortWord} {rest : List PortWord} (h : s.pending = p :: rest) :
    step s =
      match decode p with
      | .ok i => exec i { s with pending := rest }
      | .error e => refuseWord e { s with pending := rest } := by
  cases hd : decode p <;> simp [step, accept, h, hd]

/-- A step that answers a next state idles, performs the operation of the next word, or takes
IllegalOperation. -/
theorem step_next_cases {s s' : State} (h : step s = .next s') :
    (s.pending = [] ∧ s' = s) ∨
    (∃ p rest i, s.pending = p :: rest ∧ decode p = .ok i ∧ exec i { s with pending := rest } = .next s') ∨
    (∃ p rest e, s.pending = p :: rest ∧ decode p = .error e ∧
      s' = { s with pending := rest, resp := [.error .illegalOperation] }) := by
  cases hp : s.pending with
  | nil => rw [step_idle hp] at h; cases h; exact .inl ⟨rfl, rfl⟩
  | cons p rest =>
    rw [step_accept hp] at h
    cases hd : decode p with
    | ok i => rw [hd] at h; exact .inr (.inl ⟨p, rest, i, rfl, hd, h⟩)
    | error e =>
      rw [hd] at h
      cases e <;> simp only [refuseWord] at h <;> cases h
      · exact .inr (.inr ⟨p, rest, _, rfl, hd, rfl⟩)
      · exact .inr (.inr ⟨p, rest, _, rfl, hd, rfl⟩)

/-! The next state of each operation. -/

theorem exec_rxb (b : Byte) (t : Time) (s : State) :
    exec (.rxb b t) s =
      .next (respond [(rxRun b (timeInput s t) s).response] (rxRun b (timeInput s t) s).st) := rfl

theorem exec_frame (st eb hi lo vb tb c : Byte) (t : Time) (s : State) :
    exec (.frame st eb hi lo vb tb c t) s =
      .next (respond (rxChunk (timeInput s t) [Config.mark0, Config.mark1, st, eb, hi, lo, vb, tb, c] s).2
        (rxChunk (timeInput s t) [Config.mark0, Config.mark1, st, eb, hi, lo, vb, tb, c] s).1) := rfl

theorem exec_avg_next {n : BitVec 16} {s s' : State} (h : exec (.avg n) s = .next s') :
    ∃ r, s' = { s with resp := [r] } ∧ (r = .error .noData ∨ ∃ m u, r = .avg m u) := by
  simp only [exec, execAvg] at h
  split at h
  · cases h; exact ⟨_, rfl, .inl rfl⟩
  · split at h
    · cases h; exact ⟨_, rfl, .inr ⟨_, _, rfl⟩⟩
    · cases h

theorem exec_snap_next {s s' : State} (h : exec .snap s = .next s') :
    ∃ r, s' = { s with resp := [r] } ∧ (r = .error .noData ∨ ∃ x, r = .snap x) := by
  simp only [exec, execSnap] at h
  split at h <;> cases h
  · exact ⟨_, rfl, .inr ⟨_, rfl⟩⟩
  · exact ⟨_, rfl, .inl rfl⟩

theorem exec_enc_next {len : BitVec 4} {p0 p1 p2 : Byte} {s s' : State}
    (h : exec (.enc len p0 p1 p2) s = .next s') :
    ∃ r, s' = { s with resp := [r] } ∧ (r = .error .commandConstruction ∨ ∃ f, r = .enc f) := by
  simp only [exec, execEnc] at h
  split at h <;> cases h
  · exact ⟨_, rfl, .inl rfl⟩
  · exact ⟨_, rfl, .inr ⟨_, rfl⟩⟩

theorem exec_cmdframe_next {p0 p1 p2 c : Byte} {s s' : State} (h : exec (.cmdframe p0 p1 p2 c) s = .next s') :
    s' = { s with resp := [.enc (commandFrame p0 p1 p2)] } := by
  simp only [exec, execCmdframe] at h
  split at h <;> cases h
  rfl

end Sys2Proof.Machine
end

