-- ==== Sys2Proof/Tests/Slice0.lean ====
section
/-! SUPPORT. Small tests of single steps with results taken from spec/95_test_vectors.md (or worked out by hand from the rule named), and a witness for every statement that has hypotheses. -/

namespace Sys2Proof.Tests

open Sys2Proof Sys2Proof.Machine

/-! ### Helpers -/

/-- The state an outcome answers, or `s`. -/
def after (o : Host.Outcome State Fault Refusal) (s : State) : State :=
  match o with
  | .next s' => s'
  | .fault _ => s
  | .refused _ => s

/-- The next state of one instruction. -/
def run1 (i : Instr) (s : State) : State := after (exec i s) s

/-- Offer one word. -/
def offer (p : PortWord) (s : State) : State := { s with pending := [p] }

/-- The next state of one step. -/
def step1 (s : State) : State := after (step s) s

/-- Synchronized, with these bytes buffered. -/
def buffered (bs : List Byte) (s : State) : State := { s with sync := true, rxbuf := bs }

/-- A session locked to ITR90 with firmware byte 0x29 and one sample (95 V-DE4 to V-DE7). -/
def itr90Session : State :=
  { State.reset with
    variant := .itr90, vlock := true, rvalid := true, rM := 50000, rTs := 2, fwvalid := true, fwver := 0x29
    hist := [(0, ⟨2, .mbar, 50000⟩)], hwr := 1, hcnt := 1 }

/-- The same locked to ITR200 (95 V-DE8). -/
def itr200Session : State := { itr90Session with variant := .itr200, fwver := 0x28 }

/-- The ring of 95 V-HI2: capacity 3, wrapped, values 1, 10, 100 oldest first. -/
def ring3 : State :=
  { itr200Session with
    histCap := 3, hwr := 1, hcnt := 3
    hist := [(0, ⟨4, .mbar, 58000⟩), (1, ⟨2, .mbar, 50000⟩), (2, ⟨3, .mbar, 54000⟩)] }

/-- The first eight bytes of the frame G of 95. -/
def g8 : List Byte := [0x07, 0x05, 0x09, 0x00, 0xC3, 0x50, 0x28, 0x0A]

/-! ### Well-formedness: an ill-formed term for each check -/

theorem test_wellFormed_frame : (Instr.frame 0x09 0 0x20 0 0x28 0x0A 0x60 0).wellFormed = true := by decide
theorem test_illFormed_frame : (Instr.frame 0x09 0 0x20 0 0x28 0x0A 0x61 0).wellFormed = false := by decide
theorem test_wellFormed_cmdframe : (Instr.cmdframe 0x10 0x20 0x30 0x60).wellFormed = true := by decide
theorem test_illFormed_cmdframe : (Instr.cmdframe 0x10 0x20 0x30 0x61).wellFormed = false := by decide

/-! ### Decoding: words written out from 30_encoding -/

theorem test_decode_rxb : decodeTableWord 8 0b00000111 = some (.rxb 0x07 0) := by decide
theorem test_decode_avg : decodeTableWord 32 0b00010000000000000000000000000010 = some (.avg 2) := by decide
theorem test_decode_clr : decodeTableWord 32 0b00100000000000000000000000000000 = some .clr := by decide
theorem test_decode_snap : decodeTableWord 32 0b00110000000000000000000000000000 = some .snap := by decide
theorem test_decode_var : decodeTableWord 32 0b01000000000000000000000000000000 = some .var := by decide
theorem test_decode_ver : decodeTableWord 32 0b01010000000000000000000000000000 = some .ver := by decide
theorem test_decode_stat : decodeTableWord 32 0b01100000000000000000000000000000 = some .stat := by decide
theorem test_decode_enc :
    decodeTableWord 32 0b01110011000100000010000000110000 = some (.enc 3 0x10 0x20 0x30) := by decide
theorem test_decode_rst : decodeTableWord 32 0b10000000000000000000000000000000 = some .rst := by decide
theorem test_decode_frame :
    decodeTableWord 72 0x070509002000280A60 = some (.frame 0x09 0x00 0x20 0x00 0x28 0x0A 0x60 0) := by decide
theorem test_decode_cmdframe : decodeTableWord 40 0x0310203060 = some (.cmdframe 0x10 0x20 0x30 0x60) := by decide
/-- 95 V-QU9 to V-QU12. -/
theorem test_illegal_words :
    [0x00000000, 0x90000000, 0xF0000000, 0x30000001, 0x10010003].map (decodeTableWord 32)
      = [none, none, none, none, none] := by decide
theorem test_no_frame_image : decodeTableWord 72 0x060509002000280A60 = none := by decide
theorem test_no_command_image : decodeTableWord 40 0x0410203060 = none := by decide

/-! ### Functions -/

/-- 95 V-CK2, V-CK4, V-CK6, V-CK7. -/
theorem test_chk8 :
    chk8 [0x05, 0x09, 0x00, 0x20, 0x00, 0x28, 0x0A] = 0x60 ∧ chk8 [0x05, 0xFB, 0, 0, 0, 0, 0] = 0 ∧
    chk8 [0x05, 0xEF, 0xFF, 0xFF, 0xFF, 0xFF, 0x0C] = 0xFC ∧
    chk8 [0x05, 0x30, 0x00, 0xC3, 0x50, 0x29, 0x0A] = 0x7B := by decide
/-- 95 V-PV2 (10^−10.452 = 10^−11 · 10^(2192/4000)), V-PV3, V-PV5, V-PV15. -/
theorem test_pval :
    pval .mbar 8192 = ⟨[(2192, 1 / 10 ^ 11)]⟩ ∧ pval .mbar 46000 = ⟨[(0, 1 / 10)]⟩ ∧
    pval .mbar 54000 = ⟨[(0, 10)]⟩ ∧ pval .pa 50000 = ⟨[(0, 100)]⟩ := by decide +kernel

/-! ### One step of each instruction -/

/-- 95 V-FS1. -/
theorem test_rxb_noise : step1 (offer (.rx 0x11 1) State.reset) = { State.reset with resp := [.rx .none 1] } := by
  decide
/-- 95 V-DE1: the ninth byte commits the reading under Base. -/
theorem test_rxb_reading :
    run1 (.rxb 0x60 7) (buffered [0x07, 0x05, 0x09, 0x00, 0x20, 0x00, 0x28, 0x0A] State.reset) =
      { State.reset with
        sync := true, variant := .itr90, vlock := true, rvalid := true, rM := 8192, rEmis := .low, rTog := true
        rTs := 7, fwvalid := true, fwver := 0x28, hist := [(0, ⟨7, .mbar, 8192⟩)], hwr := 1, hcnt := 1
        resp := [.rx (.reading false) 0] } := by decide
/-- 00 R6: with W_TS = 4 the port takes four bits of 0x37. -/
theorem test_rxb_time_width :
    (run1 (.rxb 0x53 0x37) (buffered g8 { State.reset with wTs := 4 })).rTs = 7 := by decide
/-- 95 program P2: the checksum fails, the scan stops at the inner 0x07. -/
theorem test_rxb_rescan :
    (run1 (.rxb 0xAE 1) (buffered [0x07, 0x05, 0x07, 0x00, 0xC3, 0x50, 0x28, 0x0A] State.reset)).resp =
      [.rx (.framing .checksum) 2] := by decide
/-- 95 V-DE5, V-DE6: the decoder rejects the code, then the unit. -/
theorem test_decode_errors :
    (run1 (.rxb 0x7B 4) (buffered [0x07, 0x05, 0x00, 0x30, 0xC3, 0x50, 0x29, 0x0A] itr90Session)).resp =
      [.rx (.decode .errcode) 0] ∧
    (run1 (.rxb 0x7B 4) (buffered [0x07, 0x05, 0x30, 0x00, 0xC3, 0x50, 0x29, 0x0A] itr90Session)).dfield = 1 := by
  decide
/-- 95 V-HI4, V-HI3. -/
theorem test_avg :
    (run1 (.avg 60) ring3).resp = [.avg (.exact ⟨[(0, 37)]⟩) 3] ∧
    (run1 (.avg 2) ring3).resp = [.avg (.exact ⟨[(0, 55)]⟩) 2] := by
  decide +kernel
/-- 43 R143: in a finite NUM the mean is a function of the newest-first list of (u, m). -/
theorem test_avg_finite :
    (run1 (.avg 2) { ring3 with num := .finite }).resp =
      [.avg (.finite (Config.portMean [(0, 58000), (0, 54000)])) 2] := rfl
/-- 95 V-HI5, V-QU5. -/
theorem test_avg_no_data :
    (run1 (.avg 0) ring3).resp = [.error .noData] ∧ (run1 (.avg 1) State.reset).resp = [.error .noData] := by decide
/-- 95 V-HI7. -/
theorem test_clr : run1 .clr ring3 = { ring3 with hwr := 0, hcnt := 0, resp := [.clr] } := by decide
/-- 95 V-QU1. -/
theorem test_snap_no_data : (run1 .snap State.reset).resp = [.error .noData] := by decide
/-- The reading of 95 P1's frame A, 1 mbar. -/
theorem test_snap :
    (run1 .snap itr90Session).resp =
      [.snap ⟨.mbar, 50000, .exact ⟨[(0, 1)]⟩, .off, false, false, .noError, false, .itr90, 0x29, 2⟩] := by decide +kernel
/-- 42 R119: in a finite NUM the pressure is a function of (u, m). -/
theorem test_snap_finite :
    (run1 .snap { itr90Session with num := .finite }).resp =
      [.snap ⟨.mbar, 50000, .finite (Config.portPressure 0 50000), .off, false, false, .noError, false, .itr90,
        0x29, 2⟩] := rfl
theorem test_var : (run1 .var itr200Session).resp = [.var .itr200 true] := by decide
/-- 95 P3: version 2.05. -/
theorem test_ver :
    (run1 .ver itr90Session).resp = [.ver true 41] ∧ firmwareVersion itr90Session = some (205 / 100) := by
  decide +kernel
/-- 95 P3: STATUS 0157 after a reserved error code. -/
theorem test_stat :
    (run1 .stat { itr90Session with derr := true, dfield := 2, hcnt := 2 }).resp = [.stat 0x0157 2] := by decide
/-- 95 V-EN1, V-EN4. -/
theorem test_enc :
    (run1 (.enc 3 0x10 0x20 0x30) State.reset).resp = [.enc [0x03, 0x10, 0x20, 0x30, 0x60]] ∧
    (run1 (.enc 3 0xFF 0xFF 0x02) State.reset).resp = [.enc [0x03, 0xFF, 0xFF, 0x02, 0x00]] := by decide
/-- 95 V-EN3. -/
theorem test_enc_length : (run1 (.enc 4 0x10 0x20 0x30) State.reset).resp = [.error .commandConstruction] := by
  decide
/-- 70 R195: the cells stay, the registers do not. -/
theorem test_rst : run1 .rst ring3 = { State.reset with histCap := 3, hist := ring3.hist, resp := [.rst] } := by
  decide
/-- 10 R25 (b): the parameters stay. -/
theorem test_rst_parameters :
    run1 .rst { State.reset with wTs := 4, num := .finite, rTs := 3 } =
      { State.reset with wTs := 4, num := .finite, resp := [.rst] } := by decide
/-- 95 V-FS2 in one step, fetched from reset. -/
theorem test_frame :
    (step1 (State.reset.withFetchWord 72 0x07050900C350280A53)).resp =
      List.replicate 8 (.rx .none 0) ++ [.rx (.reading false) 0] := by decide
theorem test_cmdframe :
    (step1 (State.reset.withFetchWord 40 0x0310203060)).resp = [.enc [0x03, 0x10, 0x20, 0x30, 0x60]] := by decide
/-- 95 V-QU11: no state changes. -/
theorem test_illegal_operation :
    step1 (offer (.query 0x30000001) itr90Session) = { itr90Session with resp := [.error .illegalOperation] } := by
  decide
/-- 45 R162. -/
theorem test_set_unit_outside (tbl : Config.CmdTable) : expandSetUnit tbl 3 = none := rfl

/-! ### Witnesses: a state and operands that meet the hypotheses of each statement -/

theorem itr90Session_ring : itr90Session.RingInv := by
  refine ⟨by decide, by decide, by decide, by decide, by decide, ?_, by decide⟩
  intro i x h
  simp only [itr90Session, Memory.read_cons] at h
  split at h
  · rename_i h0; subst h0; decide
  · simp at h

theorem ring3_ring : ring3.RingInv := by
  refine ⟨by decide, by decide, by decide, by decide, by decide, ?_, by decide⟩
  intro i x h
  simp only [ring3, Memory.read_cons] at h
  show i < 3
  split at h
  · omega
  · split at h
    · omega
    · split at h
      · omega
      · simp at h

theorem itr90Session_time : itr90Session.TimeInv := by
  refine ⟨by decide, ?_⟩
  intro i x h
  simp only [itr90Session, Memory.read_cons] at h
  split at h
  · cases h; decide
  · simp at h

/-- The invariant has a state of a running session in it. -/
theorem itr90Session_inv : itr90Session.Inv where
  buf := ⟨by decide, by decide⟩
  ring := itr90Session_ring
  session := ⟨rfl, by decide, rfl, by decide, by decide, by decide, by decide⟩
  time := itr90Session_time
  responses := by intro r h; simp [itr90Session, State.reset] at h

theorem offer_inv (p : PortWord) : (offer p itr90Session).Inv where
  buf := ⟨Nat.zero_le _, fun _ => rfl⟩
  ring := ⟨itr90Session_ring.1, itr90Session_ring.2, itr90Session_ring.3, itr90Session_ring.4,
    itr90Session_ring.5, itr90Session_ring.6, itr90Session_ring.7⟩
  session := ⟨rfl, itr90Session_inv.session.2, rfl, itr90Session_inv.session.4, itr90Session_inv.session.5,
    itr90Session_inv.session.6, itr90Session_inv.session.7⟩
  time := ⟨itr90Session_time.1, itr90Session_time.2⟩
  responses := by intro r h; simp [offer, itr90Session, State.reset] at h

theorem witness_StepRunsDecodedInstruction :
    (offer (.query 0x60000000) State.reset).pending = .query 0x60000000 :: [] ∧
    decode (.query 0x60000000) = .ok .stat := ⟨rfl, rfl⟩
theorem witness_StepIdles : State.reset.pending = [] := rfl
theorem witness_IllegalQueryWord :
    (offer (.query 0x10010003) State.reset).pending = .query 0x10010003 :: [] ∧
    ∀ r ∈ queryMap, (PortWord.query 0x10010003).fits r = false := by decide
theorem witness_ResetInput : (offer .resetInput ring3).pending = .resetInput :: [] := rfl
theorem witness_StepKeepsInvariant :
    (offer (.rx 0x07 1) itr90Session).Inv ∧
    step (offer (.rx 0x07 1) itr90Session) =
      .next { itr90Session with rxbuf := [0x07], sync := true, resp := [.rx .none 0] } := ⟨offer_inv _, rfl⟩
/-- The conditions the statement puts on the next word. -/
def AcceptedWord (p : PortWord) : Prop :=
  (∀ f t, p = .wireIn f t → f.extractLsb' 56 16 = 0x0705) ∧
  ∀ c, p = .wireOut c → c.extractLsb' 32 8 = 0x03 ∧
    c.extractLsb' 0 8 = c.extractLsb' 24 8 + c.extractLsb' 16 8 + c.extractLsb' 8 8
theorem witness_EveryOperationIsAccepted :
    (offer (.query 0x10000005) itr90Session).Inv ∧
    (offer (.query 0x10000005) itr90Session).pending = .query 0x10000005 :: [] ∧
    AcceptedWord (.query 0x10000005) := ⟨offer_inv _, rfl, nofun, nofun⟩
/-- An illegal query word (95 V-QU9). -/
theorem witness_EveryOperationIsAccepted_illegal :
    (offer (.query 0) itr90Session).Inv ∧ AcceptedWord (.query 0) := ⟨offer_inv _, nofun, nofun⟩
/-- A telemetry image, its checksum wrong. -/
theorem witness_EveryOperationIsAccepted_wireIn :
    (offer (.wireIn 0x070509002000280A61 3) itr90Session).Inv ∧
    AcceptedWord (.wireIn 0x070509002000280A61 3) :=
  ⟨offer_inv _, by intro f t h; cases h; decide, nofun⟩
/-- 95 V-EN1 as a command image. -/
theorem witness_EveryOperationIsAccepted_wireOut :
    (offer (.wireOut 0x0310203060) itr90Session).Inv ∧ AcceptedWord (.wireOut 0x0310203060) :=
  ⟨offer_inv _, nofun, by intro c h; cases h; decide⟩
theorem witness_OtherImages :
    (offer (.wireIn 0x060509002000280A60 0) State.reset).pending = .wireIn 0x060509002000280A60 0 :: [] ∧
    (0x060509002000280A60 : BitVec 72).extractLsb' 56 16 ≠ 0x0705 ∧
    (offer (.wireOut 0x0410203060) State.reset).pending = .wireOut 0x0410203060 :: [] ∧
    (0x0410203060 : BitVec 40).extractLsb' 32 8 ≠ 0x03 := by decide
theorem witness_EncodeDecode :
    PortWord.query 0x7F000001 ≠ .resetInput ∧ decode (.query 0x7F000001) = .ok (.enc 15 0 0 1) := by decide
theorem witness_QueryMapRows :
    (⟨"AVG", 32, 0x10000000, 0xFFFF0000⟩ : OpcodeRow) ∈ queryMap ∧
    (PortWord.query 0x1000FFFF).fits ⟨"AVG", 32, 0x10000000, 0xFFFF0000⟩ = true ∧
    decode (.query 0x1000FFFF) = .ok (.avg 65535) := by decide
theorem witness_ChecksumIgnoresOrder : ([1, 2] : List Byte).Perm [2, 1] := by decide
theorem witness_ChecksumSeesOneChangedByte : (0x00 : Byte) ≠ 0xFF := by decide
theorem witness_ReceiveUnsynchronized : State.reset.sync = false ∧ State.reset.rxbuf = [] := ⟨rfl, rfl⟩
theorem witness_ReceiveWaits :
    (buffered [0xAA, 5, 9, 0, 0xC3, 0x50, 0x28] State.reset).sync = true ∧
    ((buffered [0xAA, 5, 9, 0, 0xC3, 0x50, 0x28] State.reset).rxbuf ++ [0x0A]).length < 9 := by decide
/-- 95 V-FS8: no 0x07 follows. -/
theorem witness_FramingErrorDiscardsAll :
    (buffered g8 State.reset).sync = true ∧ (g8 ++ [(0x54 : Byte)]).length = 9 ∧
    validFrame (g8 ++ [0x54]) = false ∧ (0x07 : Byte) ∉ (g8 ++ [0x54]).drop 1 ∧
    Cause.checksum = (if byteAt (g8 ++ [0x54]) 0 ≠ 0x07 then .mark0
      else if byteAt (g8 ++ [0x54]) 1 ≠ 0x05 then .mark1 else .checksum) := by decide
/-- Index 1 (95 V-FS7) and index 8, the ends of the range of `j`. -/
theorem witness_FramingErrorRescans :
    (let f : List Byte := [0x07, 0x07, 0x05, 0x09, 0x00, 0xC3, 0x50, 0x28, 0x0A]
     f.length = 9 ∧ validFrame f = false ∧ byteAt f 1 = 0x07 ∧
     Cause.mark1 = (if byteAt f 0 ≠ 0x07 then .mark0 else if byteAt f 1 ≠ 0x05 then .mark1 else .checksum)) ∧
    (let f : List Byte := [0xAA, 0x05, 0x09, 0x00, 0xC3, 0x50, 0x28, 0x0A, 0x07]
     f.length = 9 ∧ validFrame f = false ∧ byteAt f 8 = 0x07 ∧
     (∀ i ∈ [1, 2, 3, 4, 5, 6, 7], byteAt f i ≠ 0x07) ∧
     Cause.mark0 = (if byteAt f 0 ≠ 0x07 then .mark0 else if byteAt f 1 ≠ 0x05 then .mark1 else .checksum)) := by
  decide
theorem witness_BufInv : (buffered g8 State.reset).BufInv := ⟨by decide, by decide⟩
theorem witness_DiscardCount :
    exec (.rxb 0x54 1) (buffered g8 State.reset) =
      .next { State.reset with ferr := true, resp := [.rx (.framing .checksum) 9] } := rfl
theorem witness_FramesHanded : (buffered [] State.reset).rxbuf = [] ∧ State.reset.rxbuf = [] := ⟨rfl, rfl⟩
/-- 95 V-DE10, V-DE5, V-DE2: each field fails; V-DE4: none does. -/
theorem witness_DecodeRejects :
    decodeFields .none false [7, 5, 0x30, 0, 0xC3, 0x50, 0x29, 0x0B, 0x7C] = .error .unit ∧
    decodeFields .itr90 true [7, 5, 0, 0x30, 0xC3, 0x50, 0x29, 0x0A, 0x7B] = .error .errcode ∧
    decodeFields .none false [7, 5, 0, 0xF0, 0xC3, 0x50, 0x29, 0x0B, 0x3C] = .error .type := by decide
/-- 95 V-DE4 under ITR90, V-DE8 under ITR200. -/
theorem witness_DecodeAssembles :
    decodeFields .itr90 true [7, 5, 4, 0x80, 0xD2, 0xF0, 0x2A, 0x0A, 0x7F] =
      .ok ⟨.mbar, 54000, .off, false, true, .baError, true, 0x2A, .itr90, false⟩ ∧
    decodeFields .itr200 true [7, 5, 4, 0xF0, 0xC3, 0x50, 0x28, 0x0C, 0x40] =
      .ok ⟨.mbar, 50000, .off, false, false, .noError, false, 0x28, .itr200, false⟩ := by decide
/-- 95 V-DE5. -/
theorem witness_RejectedFrame :
    (∀ k ∈ ([0, 5, 8, 9] : List (BitVec 4)), (0x30 : Byte).extractLsb' 4 4 ≠ k) ∧
    (0x00 : Byte).extractLsb' 4 2 ≠ 3 ∧
    (let f : List Byte := [7, 5, 0, 0x30, 0xC3, 0x50, 0x29, 0x0A] ++ [0x7B]
     f.length = 9 ∧ validFrame f = true ∧
     decodeFields itr90Session.variant itr90Session.vlock f = .error .errcode) := by decide
/-- 95 V-DE7, into the last cell of a ring. -/
theorem witness_AcceptedFrame :
    (let f : List Byte := [7, 5, 0x10, 0x50, 0xC5, 0x44, 0x29, 0x0C] ++ [0xA3]
     f.length = 9 ∧ validFrame f = true ∧
     decodeFields itr90Session.variant itr90Session.vlock f =
       .ok ⟨.torr, 50500, .off, false, true, .piraniAdjustmentPoor, false, 0x29, .itr200, true⟩ ∧
     ({ itr90Session with hwr := 999 } : State).hwr < itr90Session.histCap) ∧
    2 ^ 64 - 1 < 2 ^ itr90Session.wTs := by decide
theorem witness_AppendOnSequence : ring3.RingInv ∧ (histSeq ring3).length = ring3.histCap := ⟨ring3_ring, rfl⟩
theorem witness_HistoryKeepsMostRecent : ∃ s : State, s.RingInv ∧ s.hcnt = 0 :=
  ⟨State.reset, ⟨by decide, by decide, by decide, by decide, rfl, by intro i x h; simp [State.reset] at h,
    by intro j h; simp [State.reset] at h⟩, rfl⟩
/-- Both clauses, at both ends of the range of `n`. -/
theorem witness_AverageOfMostRecent :
    ring3.RingInv ∧ 3 = min (65535 : BitVec 16).toNat ring3.hcnt ∧ 1 = min (1 : BitVec 16).toNat ring3.hcnt ∧
    0 = min (0 : BitVec 16).toNat ring3.hcnt := ⟨ring3_ring, by decide, by decide, by decide⟩
/-- A state no run reaches: one sample counted, none written. -/
theorem witness_AverageFaults :
    exec (.avg 1) { State.reset with hcnt := 1, hwr := 1 } = .fault .historyCellUnwritten ∧
    none ∈ (histSeq { State.reset with hcnt := 1, hwr := 1 }).drop (1 - min (1 : BitVec 16).toNat 1) :=
  ⟨rfl, by decide⟩
theorem witness_AverageLiesBetween :
    ([⟨1, .mbar, 50000⟩] : List Sample) ≠ [] ∧
    ∀ x ∈ ([⟨1, .mbar, 50000⟩] : List Sample),
      realPressure .mbar 50000 ≤ realPressure x.unit x.m ∧
      realPressure x.unit x.m ≤ realPressure .mbar 50000 := by
  refine ⟨by simp, fun x hx => ?_⟩
  simp only [List.mem_singleton] at hx
  subst hx
  exact ⟨le_refl _, le_refl _⟩
theorem witness_PressureRises : (65534 : BitVec 16).toNat + 1 = (65535 : BitVec 16).toNat := by decide
theorem witness_Snapshot : itr90Session.rvalid = true ∧ State.reset.rvalid = false := ⟨rfl, rfl⟩
theorem witness_StatusWord : ({ ring3 with hcnt := 65535 } : State).hcnt ≤ 65535 := by decide
theorem witness_CallersOnlyRead :
    (offer (.query 0x60000000) State.reset).pending = .query 0x60000000 :: [] ∧
    decode (.query 0x60000000) ≠ .ok .clr ∧ decode (.query 0x60000000) ≠ .ok .rst ∧
    step (offer (.query 0x60000000) State.reset) = .next { State.reset with resp := [.stat 0 0] } :=
  ⟨rfl, nofun, nofun, rfl⟩
theorem witness_EncodeLengths : (2 : BitVec 4) ≠ 3 ∧ (4 : BitVec 4) ≠ 3 := by decide
theorem witness_CommandFrame :
    (0x60 : Byte) = 0x10 + 0x20 + 0x30 ∧ (0x61 : Byte) ≠ 0x10 + 0x20 + 0x30 := by decide
theorem witness_QueriesRepeat :
    exec .clr ring3 = .next { ring3 with hwr := 0, hcnt := 0, resp := [.clr] } ∧
    Instr.clr ∈ [Instr.clr, .snap, .var, .ver, .stat] ∧
    exec (.enc 2 0 0 0) ring3 = .next { ring3 with resp := [.error .commandConstruction] } :=
  ⟨rfl, by decide, rfl⟩
theorem witness_LockHolds :
    (offer (.rx 0x07 1) itr90Session).vlock = true ∧ (offer (.rx 0x07 1) itr90Session).fwvalid = true ∧
    (∀ p ∈ (offer (.rx 0x07 1) itr90Session).pending.head?, startsSession p = false) ∧
    step (offer (.rx 0x07 1) itr90Session) =
      .next { itr90Session with rxbuf := [0x07], sync := true, resp := [.rx .none 0] } := by
  refine ⟨rfl, rfl, ?_, rfl⟩
  intro p hp
  simp only [offer, List.head?_cons, Option.mem_def, Option.some.injEq] at hp
  subst hp
  rfl
theorem witness_StickyFlags :
    (∀ p ∈ (offer (.query 0x60000000) State.reset).pending.head?, startsSession p = false) ∧
    step (offer (.query 0x60000000) State.reset) = .next { State.reset with resp := [.stat 0 0] } := by
  refine ⟨?_, rfl⟩
  intro p hp
  simp only [offer, List.head?_cons, Option.mem_def, Option.some.injEq] at hp
  subst hp
  rfl
theorem witness_OneSamplePerReading :
    (buffered g8 State.reset).BufInv ∧ (buffered g8 State.reset).RingInv ∧
    (run1 (.rxb 0x53 1) (buffered g8 State.reset)).resp = [.rx (.reading false) 0] ∧
    (run1 (.rxb 0x54 1) (buffered g8 State.reset)).resp = [.rx (.framing .checksum) 9] :=
  ⟨witness_BufInv, ⟨by decide, by decide, by decide, by decide, rfl, by intro i x h; simp [buffered, State.reset] at h,
    by intro j h; simp [buffered, State.reset] at h⟩, by decide, by decide⟩
/-- DFIELD set and set again, to another code. -/
theorem witness_StickyField :
    step1 (offer (.rx 0x7B 4) (buffered [0x07, 0x05, 0x30, 0x00, 0xC3, 0x50, 0x29, 0x0A]
      { itr90Session with derr := true, dfield := 2 })) =
      { itr90Session with sync := true, derr := true, dfield := 1, resp := [.rx (.decode .unit) 0] } := by decide
theorem witness_FrameIsDecoded :
    State.reset.rxbuf = [] ∧ (0x53 : Byte) = 0x05 + 0x09 + 0x00 + 0xC3 + 0x50 + 0x28 + 0x0A := by decide
theorem witness_RxFrameExpansion :
    ({ State.reset with
        pending := (expandRxFrame 0x09 0 0xC3 0x50 0x28 0x0A 2).map encode ++ [.query 0x30000000] } : State).pending =
      (expandRxFrame 0x09 0 0xC3 0x50 0x28 0x0A 2).map encode ++ [.query 0x30000000] := rfl
theorem witness_ParametersNeverChange :
    step (offer (.query 0x80000000) { ring3 with wTs := 4, num := .finite }) =
      .next { State.reset with hist := ring3.hist, histCap := 3, wTs := 4, num := .finite, resp := [.rst] } := rfl
/-- Both clauses; the ring's invariant does not look at NUM. -/
theorem witness_FiniteNumbers :
    ({ ring3 with num := .finite } : State).num = .finite ∧ ({ ring3 with num := .finite } : State).rvalid = true ∧
    ({ ring3 with num := .finite } : State).RingInv ∧ 0 < min (2 : BitVec 16).toNat ring3.hcnt :=
  ⟨rfl, rfl, ⟨ring3_ring.1, ring3_ring.2, ring3_ring.3, ring3_ring.4, ring3_ring.5, ring3_ring.6, ring3_ring.7⟩,
    by decide⟩
/-- Both ends of the width: W_TS = 0 takes no bit, W_TS = 64 takes 64. -/
theorem witness_TimeInput :
    timeInput { State.reset with wTs := 0 } 5 = 0 ∧ timeInput State.reset (2 ^ 64) = 0 ∧
    timeInput State.reset (2 ^ 64 - 1) = 2 ^ 64 - 1 := by decide

end Sys2Proof.Tests
end

section
/-! PROOFS. The register values after reset and the layout of the status word (10_state R20, R29). -/

namespace Sys2Proof.Machine

/-- Settles O1: `State.reset` holds the value of R29's table in each register. -/
theorem resetRegisterValues : Obligations.ResetRegisterValues := by
  unfold Obligations.ResetRegisterValues
  decide

/-- The bits of STATUS from bit 0 up; the bits above the list are 0 (10_state R20). -/
def statusBits (s : State) : List Bool :=
  [s.rvalid, s.vlock, s.variant.code.getLsbD 0, s.variant.code.getLsbD 1, s.fwvalid, s.ferr, s.derr,
    s.dfield.getLsbD 0, s.dfield.getLsbD 1, s.tmis]

theorem statusWord_getLsbD (s : State) (i : Nat) :
    (statusWord s).getLsbD i = (statusBits s).getD i false := by
  simp only [statusWord, flagBit, BitVec.getLsbD_append, BitVec.getLsbD_ofBool]
  match i with
  | 0 | 1 | 2 | 3 | 4 | 5 | 6 | 7 | 8 | 9 => simp [statusBits]
  | k + 10 => simp [statusBits]

/-- A field `x` of STATUS is read off the list of bits. -/
theorem extractLsb'_statusWord {s : State} {start len : Nat} {x : BitVec len}
    (h : ∀ i < len, (statusBits s).getD (start + i) false = x.getLsbD i) :
    (statusWord s).extractLsb' start len = x := by
  apply BitVec.eq_of_getLsbD_eq
  intro i hi
  simpa [BitVec.getLsbD_extractLsb', statusWord_getLsbD, hi] using h i hi

theorem extractLsb'_statusWord_variant (s : State) : (statusWord s).extractLsb' 2 2 = s.variant.code :=
  extractLsb'_statusWord fun i hi => by interval_cases i <;> rfl

theorem extractLsb'_statusWord_dfield (s : State) : (statusWord s).extractLsb' 7 2 = s.dfield :=
  extractLsb'_statusWord fun i hi => by interval_cases i <;> rfl

theorem extractLsb'_statusWord_reserved (s : State) : (statusWord s).extractLsb' 10 6 = 0 :=
  extractLsb'_statusWord fun i hi => by interval_cases i <;> rfl

theorem exec_stat (s : State) :
    exec .stat s = .next { s with resp := [.stat (statusWord s) (BitVec.ofNat 16 s.hcnt)] } := rfl

/-- Settles O41: each bit of the word is read off `statusBits`, and HCNT below 2^16 survives its 16 bits. -/
theorem statusWordLayout : Obligations.StatusWordLayout := by
  unfold Obligations.StatusWordLayout
  intro s hcap
  have hcnt : (BitVec.ofNat 16 s.hcnt).toNat = s.hcnt := by
    rw [BitVec.toNat_ofNat, Nat.mod_eq_of_lt (by omega)]
  exact ⟨statusWord s, BitVec.ofNat 16 s.hcnt, exec_stat s, hcnt,
    statusWord_getLsbD s 0, statusWord_getLsbD s 1, extractLsb'_statusWord_variant s,
    statusWord_getLsbD s 4, statusWord_getLsbD s 5, statusWord_getLsbD s 6,
    extractLsb'_statusWord_dfield s, statusWord_getLsbD s 9, extractLsb'_statusWord_reserved s⟩

end Sys2Proof.Machine
end

section
/-! PROOFS. The query decoder against the encoder and against the opcode map (30_encoding R72 to R76). -/

namespace Sys2Proof

/-! ### What was decoded is the encoder's word -/

/-- Adjacent fields, joined: the library's rule with the widths as arguments, since it does not unify with the
literal offsets of the decoder. -/
theorem extractLsb'_join {w : Nat} (start lo hi : Nat) (x : BitVec w) :
    x.extractLsb' (start + lo) hi ++ x.extractLsb' start lo = x.extractLsb' start (hi + lo) :=
  BitVec.extractLsb'_append_extractLsb'_eq_extractLsb' rfl

/-- A word with opcode `op` is the encoder's word of `op` and of its operand bits. -/
theorem encodeQuery_of_opcode {w : QueryWord} {op : BitVec 4} {x : BitVec 28}
    (hop : (w.extractLsb' 28 4).toNat = op.toNat) (hx : w.extractLsb' 0 28 = x) :
    encodeQuery op x = .query w := by
  rw [encodeQuery, ← BitVec.eq_of_toNat_eq hop, ← hx]
  exact congrArg _ BitVec.extractLsb'_append_extractLsb'

theorem decodeBare_eq_ok {w : QueryWord} {i j : Instr} :
    decodeBare w i = .ok j ↔ w.extractLsb' 0 28 = 0 ∧ i = j := by
  unfold decodeBare
  split <;> simp_all

theorem decodeBare_eq_error {w : QueryWord} {i : Instr} {e : Reject} :
    decodeBare w i = .error e ↔ w.extractLsb' 0 28 ≠ 0 ∧ e = .operandBitsNotZero := by
  unfold decodeBare
  split <;> simp_all [eq_comm]

theorem encode_of_decodeQuery {w : QueryWord} {i : Instr} (h : decodeQuery w = .ok i) :
    encode i = .query w := by
  unfold decodeQuery at h
  split at h
  case h_1 hop =>
    split at h
    next hz =>
      cases h
      refine encodeQuery_of_opcode hop ?_
      rw [← hz, extractLsb'_join 0 16 12]
    next => cases h
  case h_7 hop =>
    cases h
    refine encodeQuery_of_opcode hop ?_
    rw [extractLsb'_join 16 8 4, extractLsb'_join 8 8 12, extractLsb'_join 0 8 20]
  case h_9 => cases h
  all_goals
    obtain ⟨hx, rfl⟩ := decodeBare_eq_ok.1 h
    exact encodeQuery_of_opcode ‹_› hx

/-- A query word is refused for its opcode or for its operand bits, never as an image. -/
theorem decodeQuery_eq_error {w : QueryWord} {e : Reject} (h : decodeQuery w = .error e) :
    e = .illegalOpcode ∨ e = .operandBitsNotZero := by
  unfold decodeQuery at h
  split at h
  case h_1 => split at h <;> cases h; exact .inr rfl
  case h_7 => cases h
  case h_9 => cases h; exact .inl rfl
  all_goals exact .inr (decodeBare_eq_error.1 h).2

/-! ### A decoded word fits a row -/

/-- The word of every instruction fits the row of the opcode table that has its mnemonic. -/
theorem encode_fits_row (i : Instr) : Laws.OpcodeRow.Statement i := by
  cases i with
  | rxb b t => exact Laws.OpcodeRow.rxb b t
  | avg n => exact Laws.OpcodeRow.avg n
  | clr => exact Laws.OpcodeRow.clr
  | snap => exact Laws.OpcodeRow.snap
  | var => exact Laws.OpcodeRow.var
  | ver => exact Laws.OpcodeRow.ver
  | stat => exact Laws.OpcodeRow.stat
  | enc len p0 p1 p2 => exact Laws.OpcodeRow.enc len p0 p1 p2
  | rst => exact Laws.OpcodeRow.rst
  | frame st eb hi lo vb tb c t => exact Laws.OpcodeRow.frame st eb hi lo vb tb c t
  | cmdframe p0 p1 p2 c => exact Laws.OpcodeRow.cmdframe p0 p1 p2 c

theorem query_fits_iff {w : QueryWord} {r : OpcodeRow} :
    (PortWord.query w).fits r = true ↔ r.nbits = 32 ∧ w.toNat &&& r.mask = r.pat := by
  rw [PortWord.fits, Bool.and_eq_true, beq_iff_eq, beq_iff_eq, PortWord.nbits, PortWord.value, eq_comm]

/-- The rows of the opcode table with 32 bits are those of the query port. -/
theorem mem_queryMap_of_nbits : ∀ r ∈ opcodeTable, r.nbits = 32 → r ∈ queryMap := by decide

theorem exists_row_of_decodeQuery {w : QueryWord} {i : Instr} (h : decodeQuery w = .ok i) :
    ∃ r ∈ queryMap, r.mnemonic = i.mnemonic ∧ (PortWord.query w).fits r = true := by
  obtain ⟨r, hr, hm, hf⟩ := encode_fits_row i
  rw [encode_of_decodeQuery h] at hf
  exact ⟨r, mem_queryMap_of_nbits r hr (query_fits_iff.1 hf).1, hm, hf⟩

/-! ### A word that fits a row decodes to that row's operation -/

/-- A word whose high bits under the mask are those of `hi` is `hi` above its low bits. -/
theorem eq_append_of_and_mask {m n : Nat} {w : BitVec (m + n)} {hi : BitVec m}
    (h : w.toNat &&& ((2 ^ m - 1) <<< n) = hi.toNat <<< n) : w = hi ++ w.extractLsb' 0 n := by
  have hw := Laws.OpcodeRow.and_mask_append (w.extractLsb' n m) (w.extractLsb' 0 n)
  rw [BitVec.extractLsb'_append_extractLsb', h, Nat.shiftLeft_eq, Nat.shiftLeft_eq] at hw
  have hhi : w.extractLsb' n m = hi :=
    BitVec.eq_of_toNat_eq (Nat.eq_of_mul_eq_mul_right (Nat.two_pow_pos n) hw.symm)
  rw [← hhi, BitVec.extractLsb'_append_extractLsb']

/-- A word that fits a row without operand bits is that row's pattern. -/
theorem eq_of_and_full_mask {w p : QueryWord} (h : w.toNat &&& 0xFFFFFFFF = p.toNat) : w = p :=
  BitVec.eq_of_toNat_eq (by rw [← h, Nat.and_two_pow_sub_one_of_lt_two_pow (n := 32) w.isLt])

theorem decodeQuery_avg (n : BitVec 16) : decodeQuery ((0x1000 : BitVec 16) ++ n) = .ok (.avg n) := by
  have hop : ((0x1000 : BitVec 16) ++ n).extractLsb' 28 4 = 0x1 := BitVec.extractLsb'_append_eq_of_le (by decide)
  have hz : ((0x1000 : BitVec 16) ++ n).extractLsb' 16 12 = 0 := BitVec.extractLsb'_append_eq_of_le (by decide)
  simp only [decodeQuery, hop, hz]
  exact congrArg (Except.ok ∘ Instr.avg) BitVec.extractLsb'_append_eq_right

theorem decodeQuery_enc (x : BitVec 28) :
    ∃ len p0 p1 p2, decodeQuery ((0x7 : BitVec 4) ++ x) = .ok (.enc len p0 p1 p2) := by
  have hop : ((0x7 : BitVec 4) ++ x).extractLsb' 28 4 = 0x7 := BitVec.extractLsb'_append_eq_left
  simp only [decodeQuery, hop]
  exact ⟨_, _, _, _, rfl⟩

theorem exists_decodeQuery_of_fits {w : QueryWord} {r : OpcodeRow} (hr : r ∈ queryMap)
    (hf : (PortWord.query w).fits r = true) :
    ∃ i, decodeQuery w = .ok i ∧ i.mnemonic = r.mnemonic := by
  have hw := (query_fits_iff.1 hf).2
  simp only [queryMap, List.mem_cons, List.not_mem_nil, or_false] at hr
  obtain rfl | rfl | rfl | rfl | rfl | rfl | rfl | rfl := hr
  · rw [eq_append_of_and_mask (m := 16) (n := 16) (hi := 0x1000) hw]
    exact ⟨_, decodeQuery_avg _, rfl⟩
  · exact ⟨.clr, by rw [eq_of_and_full_mask (p := 0x20000000) hw]; decide, rfl⟩
  · exact ⟨.snap, by rw [eq_of_and_full_mask (p := 0x30000000) hw]; decide, rfl⟩
  · exact ⟨.var, by rw [eq_of_and_full_mask (p := 0x40000000) hw]; decide, rfl⟩
  · exact ⟨.ver, by rw [eq_of_and_full_mask (p := 0x50000000) hw]; decide, rfl⟩
  · exact ⟨.stat, by rw [eq_of_and_full_mask (p := 0x60000000) hw]; decide, rfl⟩
  · rw [eq_append_of_and_mask (m := 4) (n := 28) (hi := 0x7) hw]
    obtain ⟨len, p0, p1, p2, h⟩ := decodeQuery_enc _
    exact ⟨_, h, rfl⟩
  · exact ⟨.rst, by rw [eq_of_and_full_mask (p := 0x80000000) hw]; decide, rfl⟩

/-- Settles O13: a decoded word is the encoder's, which fits its row; a word that fits a row has that row's
fixed bits, from which the decoder reads. -/
theorem decoderFollowsQueryMap : Obligations.DecoderFollowsQueryMap := by
  unfold Obligations.DecoderFollowsQueryMap
  exact fun w => ⟨fun _ => exists_row_of_decodeQuery, fun _ => exists_decodeQuery_of_fits⟩

end Sys2Proof

namespace Sys2Proof.Machine

theorem decodeQuery_error_of_fits_no_row {w : QueryWord}
    (h : ∀ r ∈ queryMap, (PortWord.query w).fits r = false) : ∃ e, decodeQuery w = .error e := by
  cases hd : decodeQuery w with
  | error e => exact ⟨e, rfl⟩
  | ok i =>
    obtain ⟨r, hr, -, hf⟩ := exists_row_of_decodeQuery hd
    rw [h r hr] at hf
    cases hf

/-- Refusing a query word is IllegalOperation, which changes the response alone (60_exceptions R175). -/
theorem refuseWord_of_decodeQuery {w : QueryWord} {e : Reject} (h : decodeQuery w = .error e) (s : State) :
    refuseWord e s = .next { s with resp := [.error .illegalOperation] } := by
  obtain rfl | rfl := decodeQuery_eq_error h <;> rfl

/-- Settles O5: a word that fits no row is not decoded (O13), and refusing it gives ST = 5. -/
theorem illegalQueryWordTakesIllegalOperation : Obligations.IllegalQueryWordTakesIllegalOperation := by
  unfold Obligations.IllegalQueryWordTakesIllegalOperation
  intro s w rest hp hno
  obtain ⟨e, he⟩ := decodeQuery_error_of_fits_no_row hno
  refine ⟨_, rfl, by decide, ?_⟩
  have hd : decode (.query w) = .error e := he
  rw [step_accept hp, hd]
  exact refuseWord_of_decodeQuery he _

end Sys2Proof.Machine
end

section
/-! PROOFS. The checksum as a sum over unbounded integers (40_checksum R90). -/

namespace Sys2Proof.Machine

@[simp] theorem chk8_nil : chk8 [] = 0 := rfl

@[simp] theorem chk8_cons (b : Byte) (s : List Byte) : chk8 (b :: s) = b + chk8 s := rfl

/-- Settles O14, by induction on the bytes: reducing the tail's sum before a byte is added leaves the sum
modulo 256 as it is. -/
theorem checksumIsSumModulo256 : Obligations.ChecksumIsSumModulo256 := by
  unfold Obligations.ChecksumIsSumModulo256
  intro s
  induction s with
  | nil => simp
  | cons b s ih =>
    calc (chk8 (b :: s)).toNat
        = (b.toNat + (chk8 s).toNat) % 256 := by rw [chk8_cons, BitVec.toNat_add]
      _ = (b.toNat + (s.map BitVec.toNat).sum) % 256 := by rw [ih, Nat.add_mod_mod]
      _ = ((b :: s).map BitVec.toNat).sum % 256 := by rw [List.map_cons, List.sum_cons]

end Sys2Proof.Machine
end

section
/-! PROOFS. The validation of a candidate, and the RXB step in which it fails (41_framesync R97, R98). -/

namespace Sys2Proof.Machine

/-- The loop's test of a candidate: the `valid` of the stream level, or the first test that fails
(41_framesync R97, R98). -/
theorem candidateCause_eq (f : List Byte) :
    candidateCause f =
      if validFrame f then none
      else some (if byteAt f 0 ≠ 0x07 then .mark0 else if byteAt f 1 ≠ 0x05 then .mark1 else .checksum) := by
  unfold candidateCause validFrame Config.mark0 Config.mark1
  by_cases h0 : byteAt f 0 = 7#8
  · by_cases h1 : byteAt f 1 = 5#8
    · by_cases h8 : byteAt f 8 = chk8 (summed f) <;> simp [h0, h1, h8]
    · simp [h0, h1]
  · simp [h0]

theorem candidateCause_of_valid {f : List Byte} (h : validFrame f = true) : candidateCause f = none := by
  rw [candidateCause_eq, if_pos h]

theorem candidateCause_of_not_valid {f : List Byte} (h : validFrame f = false) :
    candidateCause f =
      some (if byteAt f 0 ≠ 0x07 then .mark0 else if byteAt f 1 ≠ 0x05 then .mark1 else .checksum) := by
  rw [candidateCause_eq, if_neg (by simp [h])]

theorem byteAt_eq_getElem {f : List Byte} {i : Nat} (h : i < f.length) : byteAt f i = f[i] := by
  simp [byteAt, h]

/-- The bytes after the first, cut at the first 0x07 among them. -/
theorem drop_one_eq_of_first_mark {f : List Byte} {j : Nat} (hj : 1 ≤ j) (hlt : j < f.length)
    (hm : byteAt f j = 0x07) (hfirst : ∀ i, 1 ≤ i → i < j → byteAt f i ≠ 0x07) :
    ∃ pre post, f.drop 1 = pre ++ Config.mark0 :: post ∧ Config.mark0 ∉ pre ∧
      f.drop j = Config.mark0 :: post ∧ 1 + pre.length = j := by
  have hdrop : f.drop j = Config.mark0 :: f.drop (j + 1) := by
    rw [List.drop_eq_getElem_cons hlt, ← byteAt_eq_getElem hlt, hm, Config.mark0]
  refine ⟨(f.drop 1).take (j - 1), f.drop (j + 1), ?_, ?_, hdrop, ?_⟩
  · rw [← hdrop, ← Nat.add_sub_cancel' hj, ← List.drop_drop, Nat.add_sub_cancel_left,
      List.take_append_drop]
  · intro hmem
    obtain ⟨i, hi, he⟩ := List.getElem_of_mem hmem
    rw [List.length_take] at hi
    rw [List.getElem_take, List.getElem_drop, ← byteAt_eq_getElem] at he
    exact hfirst (1 + i) (by omega) (by omega) he
  · rw [List.length_take, List.length_drop]
    omega

/-- Settles O20: the two runs of a failed candidate, with the buffer's tail cut at its first 0x07. -/
theorem framingErrorDropsOneByteAndRescans : Obligations.FramingErrorDropsOneByteAndRescans := by
  unfold Obligations.FramingErrorDropsOneByteAndRescans
  rintro b t s f c hs rfl hlen hv rfl
  have hl : s.rxbuf.length = 8 := by simpa using hlen
  have hc := candidateCause_of_not_valid hv
  refine ⟨fun hn => ?_, fun j hj hj8 hm hfirst => ?_⟩
  · rw [exec_rxb, rxRun_invalid_empty hs hl hc hn]
    rfl
  · obtain ⟨pre, post, hr, hpre, hd, rfl⟩ := drop_one_eq_of_first_mark hj (by omega) hm hfirst
    rw [exec_rxb, rxRun_invalid_rescan hs hl hc hr hpre, hd]
    rfl

end Sys2Proof.Machine
end

section
/-! PROOFS. The frames handed to DECODE are those of the stream (41_framesync R104). -/

namespace Sys2Proof.Machine

/-! ### `frames`, byte by byte -/

theorem scan_cons_mark (s : List Byte) : scan (Config.mark0 :: s) = some 0 := by
  simp [scan, List.findIdx?_cons]

theorem scan_cons_of_ne {b : Byte} (h : b ≠ Config.mark0) (s : List Byte) :
    scan (b :: s) = (scan s).map (· + 1) := by
  simp [scan, List.findIdx?_cons, h]

/-- A byte that is not 0x07 begins no frame. -/
theorem framesUpTo_cons_of_ne {b : Byte} (h : b ≠ Config.mark0) (n : Nat) (s : List Byte) :
    framesUpTo (n + 1) (b :: s) = framesUpTo (n + 1) s := by
  cases hk : scan s <;> simp [framesUpTo, scan_cons_of_ne h, hk]

/-- At a 0x07 the next nine bytes are tried as a frame. -/
theorem framesUpTo_cons_mark (n : Nat) (s : List Byte) :
    framesUpTo (n + 1) (Config.mark0 :: s) =
      if s.length + 1 < 9 then []
      else if validFrame (Config.mark0 :: s.take 8) then (Config.mark0 :: s.take 8) :: framesUpTo n (s.drop 8)
      else framesUpTo n s := by
  simp [framesUpTo, scan_cons_mark]

/-- Bounds above the length of the stream all give the same frames. -/
theorem framesUpTo_congr {n m : Nat} {s : List Byte} (hn : s.length < n) (hm : s.length < m) :
    framesUpTo n s = framesUpTo m s := by
  induction n generalizing m s with
  | zero => omega
  | succ n ih =>
    obtain ⟨m, rfl⟩ := Nat.exists_eq_succ_of_ne_zero (by omega : m ≠ 0)
    induction s with
    | nil => rfl
    | cons b s ihs =>
      simp only [List.length_cons] at hn hm
      by_cases hb : b = Config.mark0
      · rw [hb, framesUpTo_cons_mark, framesUpTo_cons_mark, ih (m := m) (s := s) (by omega) (by omega),
          ih (m := m) (s := s.drop 8) (by rw [List.length_drop]; omega) (by rw [List.length_drop]; omega)]
      · rw [framesUpTo_cons_of_ne hb, framesUpTo_cons_of_ne hb]
        exact ihs (by omega) (by omega)

theorem framesUpTo_eq_frames {n : Nat} {s : List Byte} (h : s.length < n) : framesUpTo n s = frames s :=
  framesUpTo_congr h (Nat.lt_succ_self _)

theorem frames_nil : frames [] = [] := rfl

theorem frames_cons_of_ne {b : Byte} (h : b ≠ Config.mark0) (s : List Byte) : frames (b :: s) = frames s := by
  rw [frames, framesUpTo_cons_of_ne h, framesUpTo_eq_frames (by simp)]

theorem frames_cons_mark (s : List Byte) :
    frames (Config.mark0 :: s) =
      if s.length + 1 < 9 then []
      else if validFrame (Config.mark0 :: s.take 8) then (Config.mark0 :: s.take 8) :: frames (s.drop 8)
      else frames s := by
  rw [frames, framesUpTo_cons_mark, framesUpTo_eq_frames (s := s) (by simp),
    framesUpTo_eq_frames (s := s.drop 8) (by simp)]

/-- Bytes without a 0x07 among them are no part of a frame that begins after them. -/
theorem frames_append_of_not_mem {pre : List Byte} (h : Config.mark0 ∉ pre) (s : List Byte) :
    frames (pre ++ s) = frames s := by
  induction pre with
  | nil => rfl
  | cons b pre ih =>
    obtain ⟨hb, hpre⟩ := not_or.1 (mt List.mem_cons.2 h)
    rw [List.cons_append, frames_cons_of_ne (Ne.symm hb), ih hpre]

theorem frames_of_length_lt {s : List Byte} (h : s.length < 9) : frames s = [] := by
  induction s with
  | nil => exact frames_nil
  | cons b s ih =>
    rw [List.length_cons] at h
    by_cases hb : b = Config.mark0
    · rw [hb, frames_cons_mark, if_pos (by omega)]
    · rw [frames_cons_of_ne hb, ih (by omega)]

/-- The first nine bytes of a stream: a frame, or the first of them is dropped. -/
theorem frames_append_candidate {f : List Byte} (h : f.length = 9) (s : List Byte) :
    frames (f ++ s) = if validFrame f then f :: frames s else frames (f.drop 1 ++ s) := by
  obtain ⟨b, g, rfl⟩ := List.exists_cons_of_length_eq_add_one h
  have hg : g.length = 8 := by simpa using h
  by_cases hb : b = Config.mark0
  · subst hb
    rw [List.cons_append, frames_cons_mark, if_neg (by simp [hg]), List.take_left' hg, List.drop_left' hg]
    rfl
  · have hb7 : b ≠ 7#8 := hb
    have hv : validFrame (b :: g) = false := by simp [validFrame, byteAt, hb7]
    rw [hv, List.cons_append, frames_cons_of_ne hb]
    rfl

/-! ### One RXB step on the stream -/

/-- The frame an RXB step hands to DECODE, if it hands one over. -/
def stepFrames (b : Byte) (t : Time) (s : State) : List (List Byte) :=
  if handedOver (stateAfter (.rxb b t) s) then [(s.rxbuf ++ [b]).take 9] else []

theorem framesHanded_cons (b : Byte) (t : Time) (rest : List (Byte × Time)) (s : State) :
    framesHanded ((b, t) :: rest) s = stepFrames b t s ++ framesHanded rest (stateAfter (.rxb b t) s) := by
  simp only [framesHanded, stepFrames]
  split <;> rfl

theorem stateAfter_rxb (b : Byte) (t : Time) (s : State) :
    stateAfter (.rxb b t) s =
      respond [(rxRun b (timeInput s t) s).response] (rxRun b (timeInput s t) s).st := rfl

theorem handedOver_decodeFrame (f : List Byte) (t : Time) (s s' : State) (n : Nat) :
    handedOver (respond [.rx (decodeFrame f t s).2 n] s') = true := by
  obtain ⟨e, -, h⟩ | ⟨d, -, h⟩ := decodeFrame_cases f t s <;> rw [h] <;> rfl

/-- An RXB step hands over what the stream has next and leaves buffered where the stream's next frame begins. -/
structure FollowsStream (b : Byte) (t : Time) (s : State) : Prop where
  bufInv : (stateAfter (.rxb b t) s).BufInv
  frames_eq : ∀ rest, frames ((s.rxbuf ++ [b]) ++ rest) =
    stepFrames b t s ++ frames ((stateAfter (.rxb b t) s).rxbuf ++ rest)

theorem bufInv_of_empty {s : State} (h : s.rxbuf = []) : s.BufInv where
  short := by simp [h]
  empty _ := h

theorem bufInv_of_sync {s : State} (hs : s.sync = true) (hl : s.rxbuf.length ≤ 8) : s.BufInv where
  short := hl
  empty h := by rw [hs] at h; cases h

section
variable {b : Byte} {t : Time} {s : State}

/-- A step that hands nothing over follows the stream if no frame begins at the bytes it drops. -/
theorem followsStream_of_dropped {r : RxRun} (hr : rxRun b (timeInput s t) s = r)
    (hev : r.ev = .none ∨ ∃ c, r.ev = .framing c) (hbuf : r.st.BufInv)
    (hf : ∀ rest, frames ((s.rxbuf ++ [b]) ++ rest) = frames (r.st.rxbuf ++ rest)) : FollowsStream b t s := by
  have hst : stateAfter (.rxb b t) s = respond [r.response] r.st := by rw [stateAfter_rxb, hr]
  have hsf : stepFrames b t s = [] := by
    obtain he | ⟨c, he⟩ := hev <;> rw [stepFrames, hst, RxRun.response, he] <;> rfl
  exact ⟨by rw [hst]; exact ⟨hbuf.short, hbuf.empty⟩, fun rest => by rw [hsf, hst]; exact hf rest⟩

theorem followsStream_valid (hs : s.sync = true) (hl : s.rxbuf.length = 8)
    (hv : validFrame (s.rxbuf ++ [b]) = true) : FollowsStream b t s := by
  have hlen : (s.rxbuf ++ [b]).length = 9 := by simp [hl]
  have hst := stateAfter_rxb b t s
  rw [rxRun_valid hs hl (candidateCause_of_valid hv)] at hst
  have hbuf : (stateAfter (.rxb b t) s).rxbuf = [] := by rw [hst]; simp
  refine ⟨bufInv_of_empty hbuf, fun rest => ?_⟩
  rw [frames_append_candidate hlen, if_pos hv, hbuf, stepFrames, hst, RxRun.response,
    if_pos (handedOver_decodeFrame ..), List.take_of_length_le hlen.le]
  rfl

theorem followsStream_invalid (hs : s.sync = true) (hl : s.rxbuf.length = 8)
    (hv : validFrame (s.rxbuf ++ [b]) = false) : FollowsStream b t s := by
  have hlen : (s.rxbuf ++ [b]).length = 9 := by simp [hl]
  have hc := candidateCause_of_not_valid hv
  have hdrop (rest : List Byte) :
      frames ((s.rxbuf ++ [b]) ++ rest) = frames ((s.rxbuf ++ [b]).drop 1 ++ rest) := by
    rw [frames_append_candidate hlen, hv]
    rfl
  by_cases hm : Config.mark0 ∈ (s.rxbuf ++ [b]).drop 1
  · obtain ⟨pre, post, hcut, hpre⟩ := List.eq_append_cons_of_mem hm
    have hpost : (Config.mark0 :: post).length ≤ 8 := by
      have hcount := congrArg List.length hcut
      rw [List.length_drop, hlen, List.length_append] at hcount
      omega
    refine followsStream_of_dropped (rxRun_invalid_rescan hs hl hc hcut hpre) (.inr ⟨_, rfl⟩)
      (bufInv_of_sync rfl hpost) fun rest => ?_
    rw [hdrop, hcut, List.append_assoc, frames_append_of_not_mem hpre]
  · refine followsStream_of_dropped (rxRun_invalid_empty hs hl hc hm) (.inr ⟨_, rfl⟩)
      (bufInv_of_empty rfl) fun rest => ?_
    rw [hdrop, frames_append_of_not_mem hm]
    rfl

/-- Every RXB step follows the stream, by the rows of 41_framesync R105. -/
theorem followsStream_of_bufInv (h : s.BufInv) : FollowsStream b t s := by
  cases hs : s.sync with
  | false =>
    have he := h.empty hs
    by_cases hb : b = Config.mark0
    · subst hb
      refine followsStream_of_dropped (rxRun_mark hs he) (.inl rfl)
        (bufInv_of_sync rfl (by simp)) fun rest => ?_
      rw [he]
      rfl
    · refine followsStream_of_dropped (rxRun_other hs he hb) (.inl rfl) (bufInv_of_empty rfl) fun rest => ?_
      rw [he]
      exact frames_cons_of_ne hb rest
  | true =>
    obtain hl | hl := Nat.lt_or_eq_of_le h.short
    · exact followsStream_of_dropped (rxRun_wait hs hl) (.inl rfl)
        (bufInv_of_sync hs (by simpa using hl)) fun rest => rfl
    · cases hv : validFrame (s.rxbuf ++ [b]) with
      | true => exact followsStream_valid hs hl hv
      | false => exact followsStream_invalid hs hl hv

end

/-- Between operations the buffered bytes are the start of what is still to be received. -/
theorem framesHanded_eq_frames {s : State} (h : s.BufInv) (stream : List (Byte × Time)) :
    framesHanded stream s = frames (s.rxbuf ++ stream.map Prod.fst) := by
  induction stream generalizing s with
  | nil =>
    rw [List.map_nil, List.append_nil, frames_of_length_lt (Nat.lt_succ_of_le h.short)]
    rfl
  | cons bt rest ih =>
    obtain ⟨b, t⟩ := bt
    have hstep : FollowsStream b t s := followsStream_of_bufInv h
    rw [framesHanded_cons, ih hstep.bufInv, ← hstep.frames_eq, List.append_assoc]
    rfl

/-- Settles O23: an empty buffer meets the invariant in either synchronizer state. -/
theorem framesHandedAreFramesOfStream : Obligations.FramesHandedAreFramesOfStream := by
  unfold Obligations.FramesHandedAreFramesOfStream
  intro stream s he
  rw [framesHanded_eq_frames (bufInv_of_empty he), he, List.nil_append]

end Sys2Proof.Machine
end

section
/-! PROOFS. The exact pressure values as real numbers (42_decode R118). -/

namespace Sys2Proof.Machine

theorem cast_pow10 (k : Int) : ((pow10 k : ℚ) : ℝ) = (10 : ℝ) ^ k := by
  cases k with
  | ofNat n => simp [pow10, Rat.mkRat_eq_div]
  | negSucc n => simp [pow10, Rat.mkRat_eq_div, zpow_negSucc]

/-- Splitting `e` into `4000 * (e / 4000)` and the remainder loses nothing. -/
theorem value_exp10 (e : Int) : (ExactNum.exp10 e).value = (10 : ℝ) ^ ((e : ℝ) / 4000) := by
  have hrem : (((e % 4000).toNat : ℕ) : ℝ) = ((e % 4000 : ℤ) : ℝ) := by
    exact_mod_cast Int.toNat_of_nonneg (Int.emod_nonneg e (by decide))
  have hsplit : (e : ℝ) = ((e % 4000 : ℤ) : ℝ) + 4000 * ((e / 4000 : ℤ) : ℝ) := by
    exact_mod_cast (Int.emod_add_mul_ediv e 4000).symm
  calc (ExactNum.exp10 e).value
      = (10 : ℝ) ^ (e / 4000) * (10 : ℝ) ^ (((e % 4000 : ℤ) : ℝ) / 4000) := by
        simp [ExactNum.exp10, ExactNum.value, Config.pDiv, cast_pow10, hrem]
    _ = (10 : ℝ) ^ (((e / 4000 : ℤ) : ℝ) + ((e % 4000 : ℤ) : ℝ) / 4000) := by
        rw [Real.rpow_add (by norm_num), Real.rpow_intCast]
    _ = (10 : ℝ) ^ ((e : ℝ) / 4000) := by
        congr 1
        linarith

/-- `C(u) = 4000 * K(u)` (42_decode R119 (a)). -/
theorem cast_offset (u : PressureUnit) : (u.offset : ℝ) = 4000 * (u.K : ℝ) := by
  cases u <;> norm_num [PressureUnit.offset, PressureUnit.K]

/-- Settles O34: the integer exponent `m - C(u)`, divided by 4000, is `m / 4000 - K(u)`. -/
theorem pressureValueIsExact : Obligations.PressureValueIsExact := by
  unfold Obligations.PressureValueIsExact
  intro u m
  rw [pval, value_exp10, realPressure, Int.cast_sub, cast_offset, Int.cast_natCast, sub_div,
    mul_div_cancel_left₀ _ (by norm_num)]

end Sys2Proof.Machine
end

section
/-! PROOFS. The RXB step that hands a frame to DECODE: rejected (42_decode R123) or committed (R124). -/

namespace Sys2Proof.Machine

/-! ### The fields outside their tables -/

/-- pressure_unit is outside the unit table (42_decode R113). -/
def BadUnit (f : List Byte) : Prop := (byteAt f 2).extractLsb' 4 2 = 3

/-- The ITR90 strategy meets an error code outside its table (42_decode R115). -/
def BadCode (v : Variant) (f : List Byte) : Prop :=
  v = .itr90 ∧ ∀ k ∈ ([0, 5, 8, 9] : List (BitVec 4)), (byteAt f 3).extractLsb' 4 4 ≠ k

/-- The variant is not locked and the type byte is unknown (42_decode R121). -/
def BadType (l : Bool) (f : List Byte) : Prop := l = false ∧ byteAt f 7 ≠ 10 ∧ byteAt f 7 ≠ 12

theorem unitOf_eq_none {x : Byte} : unitOf x = none ↔ x.extractLsb' 4 2 = 3 := by
  unfold unitOf
  generalize x.extractLsb' 4 2 = u
  revert u
  decide

theorem errOf_eq_none {x : Byte} :
    errOf x = none ↔ ∀ k ∈ ([0, 5, 8, 9] : List (BitVec 4)), x.extractLsb' 4 4 ≠ k := by
  unfold errOf
  generalize x.extractLsb' 4 4 = c
  revert c
  decide

theorem errFields_eq_none {v : Variant} {st eb : Byte} :
    errFields v st eb = none ↔ v = .itr90 ∧ errOf eb = none := by
  cases v <;> simp [errFields]

theorem typeTable_eq_none {x : Byte} : typeTable x = .none ↔ x ≠ 10 ∧ x ≠ 12 := by
  unfold typeTable
  split_ifs <;> simp_all

section
variable {v : Variant} {l : Bool} {f : List Byte}

theorem badUnit_iff : BadUnit f ↔ unitOf (byteAt f 2) = none := unitOf_eq_none.symm

theorem badCode_iff : BadCode v f ↔ errFields v (byteAt f 2) (byteAt f 3) = none := by
  rw [errFields_eq_none, errOf_eq_none, BadCode]

theorem badType_iff : BadType l f ↔ l = false ∧ typeTable (byteAt f 7) = .none := by
  rw [typeTable_eq_none, BadType]

/-! The pure part of DECODE, one equation per row of the order UNIT, ERRCODE, TYPE (42_decode R123). -/

theorem decodeFields_of_badUnit (hu : BadUnit f) : decodeFields v l f = .error .unit := by
  simp [decodeFields, badUnit_iff.1 hu]

theorem decodeFields_of_badCode (hu : ¬ BadUnit f) (hc : BadCode v f) :
    decodeFields v l f = .error .errcode := by
  obtain ⟨u, hu⟩ := Option.ne_none_iff_exists'.1 (mt badUnit_iff.2 hu)
  simp [decodeFields, hu, badCode_iff.1 hc]

theorem decodeFields_of_badType (hu : ¬ BadUnit f) (hc : ¬ BadCode v f) (ht : BadType l f) :
    decodeFields v l f = .error .type := by
  obtain ⟨u, hu⟩ := Option.ne_none_iff_exists'.1 (mt badUnit_iff.2 hu)
  obtain ⟨c, hc⟩ := Option.ne_none_iff_exists'.1 (mt badCode_iff.2 hc)
  simp [decodeFields, hu, hc, badType_iff.1 ht]

end

/-! ### The step -/

section
variable {b : Byte} {t : Time} {s : State}

/-- A valid candidate is consumed and handed to DECODE with the TIME value of its last byte (41_framesync R97). -/
theorem exec_rxb_valid (hs : s.sync = true) (hlen : (s.rxbuf ++ [b]).length = 9)
    (hv : validFrame (s.rxbuf ++ [b]) = true) :
    exec (.rxb b t) s = .next
      (respond [.rx (decodeFrame (s.rxbuf ++ [b]) (timeInput s t) { s with rxbuf := [] }).2 0]
        (decodeFrame (s.rxbuf ++ [b]) (timeInput s t) { s with rxbuf := [] }).1) := by
  rw [exec_rxb, rxRun_valid hs (by simpa using hlen) (candidateCause_of_valid hv)]
  rfl

theorem exec_rxb_rejected {e : DecodeField} (hs : s.sync = true) (hlen : (s.rxbuf ++ [b]).length = 9)
    (hv : validFrame (s.rxbuf ++ [b]) = true)
    (he : decodeFields s.variant s.vlock (s.rxbuf ++ [b]) = .error e) :
    exec (.rxb b t) s = .next
      { s with rxbuf := [], derr := true, dfield := e.code, resp := [.rx (.decode e) 0] } := by
  rw [exec_rxb_valid hs hlen hv]
  simp [decodeFrame, he, respond]

theorem exec_rxb_accepted {d : Decoded} (hs : s.sync = true) (hlen : (s.rxbuf ++ [b]).length = 9)
    (hv : validFrame (s.rxbuf ++ [b]) = true)
    (hd : decodeFields s.variant s.vlock (s.rxbuf ++ [b]) = .ok d) :
    exec (.rxb b t) s = .next
      (respond [.rx (.reading d.mis) 0] (commit d (timeInput s t) { s with rxbuf := [] })) := by
  rw [exec_rxb_valid hs hlen hv]
  simp [decodeFrame, hd]

end

/-- Settles O26: `e` is the first bad field, and the step is that of a frame rejected with `e`. -/
theorem rejectedFrameKeepsSession : Obligations.RejectedFrameKeepsSession := by
  unfold Obligations.RejectedFrameKeepsSession
  rintro b t s f badUnit badCode badType hs rfl hlen hv hbad
  by_cases hu : badUnit
  · exact ⟨.unit, by simp [hu], by simp [hu],
      exec_rxb_rejected hs hlen hv (decodeFields_of_badUnit hu)⟩
  · by_cases hc : badCode
    · exact ⟨.errcode, by simp [hu], by simp [hu, hc],
        exec_rxb_rejected hs hlen hv (decodeFields_of_badCode hu hc)⟩
    · have ht : badType := (hbad.resolve_left hu).resolve_left hc
      exact ⟨.type, by simp [hu], by simp [hc],
        exec_rxb_rejected hs hlen hv (decodeFields_of_badType hu hc ht)⟩

/-! ### The state after COMMIT -/

theorem modCap_natCast (s : State) (k : Nat) : modCap s k = k % s.histCap := by
  rw [modCap, ← Int.natCast_mod, Int.toNat_natCast]

/-- APPEND with HWR in range writes the cell at HWR itself (43_history R136). -/
theorem append_eq (x : Sample) {s : State} (h : s.hwr < s.histCap) :
    append x s =
      { s with
        hist := s.hist.write s.hwr x
        hwr := (s.hwr + 1) % s.histCap
        hcnt := if s.hcnt < s.histCap then s.hcnt + 1 else s.hcnt } := by
  have hnext : modCap s ((s.hwr : Int) + 1) = (s.hwr + 1) % s.histCap := modCap_natCast s (s.hwr + 1)
  rw [append, modCap_of_lt s s.hwr h, hnext]

/-- COMMIT with HWR in range; the sticky registers are written on their flag's being false, as 42_decode R124
has it. -/
theorem commit_eq (d : Decoded) (t : Time) {s : State} (h : s.hwr < s.histCap) :
    commit d t s =
      { s with
        rUnit := d.unit, rM := d.m, rEmis := d.emis, rTog := d.tog
        rX90 := d.x90, rErr := d.ec, rAdj := d.adj, rTs := t, rvalid := true
        fwver := if s.fwvalid = false then d.vb else s.fwver, fwvalid := true
        variant := if s.vlock = false then d.v else s.variant, vlock := true
        tmis := if d.mis = true then true else s.tmis
        hist := s.hist.write s.hwr ⟨t, d.unit, d.m⟩
        hwr := (s.hwr + 1) % s.histCap
        hcnt := if s.hcnt < s.histCap then s.hcnt + 1 else s.hcnt } := by
  have hver : (if s.fwvalid = false then d.vb else s.fwver) = if s.fwvalid then s.fwver else d.vb := by
    cases s.fwvalid <;> rfl
  have hvar : (if s.vlock = false then d.v else s.variant) = if s.vlock then s.variant else d.v := by
    cases s.vlock <;> rfl
  have hmis : (if d.mis = true then true else s.tmis) = (s.tmis || d.mis) := by
    cases d.mis <;> simp
  rw [hver, hvar, hmis]
  exact append_eq _ h

/-- Settles O27: the step is that of an accepted frame, and a TIME value of W_TS bits is taken as it is. -/
theorem acceptedFrameCommits : Obligations.AcceptedFrameCommits := by
  unfold Obligations.AcceptedFrameCommits
  rintro b t s f d hs rfl hlen hv hd hhwr ht
  rw [exec_rxb_accepted hs hlen hv hd, timeInput_of_lt ht, commit_eq (s := { s with rxbuf := [] }) d t hhwr]
  rfl

end Sys2Proof.Machine
end

section
/-! PROOFS. APPEND on the ring and the samples `hist()` keeps (43_history R136, R137). -/

namespace Sys2Proof.Machine

/-! ### `hist()` and its cells -/

/-- Cells are counted modulo the capacity, so HWR may be reduced or not (10_state R24). -/
theorem modCap_emod_add (s : State) (a k : Int) : modCap s (a % s.histCap + k) = modCap s (a + k) := by
  rw [modCap, modCap, Int.emod_add_emod]

theorem natCast_modCap {s : State} (h : 1 ≤ s.histCap) (k : Int) : (modCap s k : Int) = k % s.histCap :=
  Int.toNat_of_nonneg (Int.emod_nonneg k (by omega))

/-- The next write goes to the cell after the newest sample. -/
theorem oldestCell_hcnt {s : State} (h : s.hwr < s.histCap) : oldestCell s s.hcnt = s.hwr := by
  rw [oldestCell, Int.sub_add_cancel, modCap_of_lt s s.hwr h]

/-- Positions of `hist()` less than HIST_CAP apart stand in different cells. -/
theorem oldestCell_ne {s : State} {i j : Nat} (hij : i < j) (hj : j < i + s.histCap) :
    oldestCell s i ≠ oldestCell s j := by
  intro heq
  have hmod : (s.hwr - s.hcnt + i : Int) ≡ s.hwr - s.hcnt + j [ZMOD s.histCap] := by
    rw [Int.ModEq, ← natCast_modCap (by omega), ← natCast_modCap (by omega)]
    exact congrArg Nat.cast heq
  have hdvd : (s.histCap : Int) ∣ j - i := by simpa using hmod.dvd
  have := Int.le_of_dvd (by omega) hdvd
  omega

theorem append_hcnt_eq_min (x : Sample) {s : State} (h : s.hcnt ≤ s.histCap) :
    (append x s).hcnt = min (s.hcnt + 1) s.histCap := by
  rw [append_hcnt]
  split <;> omega

/-- The samples APPEND keeps stay in their cells; at capacity each moves one place forward in `hist()`. -/
theorem oldestCell_append (x : Sample) {s : State} (h : s.hcnt ≤ s.histCap) (j : Nat) :
    oldestCell (append x s) j = oldestCell s (s.hcnt + 1 - s.histCap + j) := by
  have hnext : ((append x s).hwr : Int) = (s.hwr + 1 : Int) % s.histCap := by
    rw [append_hwr, ← Int.natCast_add_one, modCap_natCast, Int.natCast_mod]
  have hcnt := append_hcnt_eq_min x h
  calc oldestCell (append x s) j
      = modCap s ((s.hwr + 1) % s.histCap + (j - min (s.hcnt + 1) s.histCap)) := by
        rw [oldestCell, modCap_congr (append_histCap x s), hnext, hcnt]
        congr 1
        omega
    _ = oldestCell s (s.hcnt + 1 - s.histCap + j) := by
        rw [modCap_emod_add, oldestCell]
        congr 1
        omega

/-- APPEND on the sequence (43_history R136): one more sample at the end, the oldest one gone at capacity. -/
theorem histSeq_append (x : Sample) {s : State} (h : s.RingInv) :
    histSeq (append x s) = (histSeq s).drop (s.hcnt + 1 - s.histCap) ++ [some x] := by
  have hcap := h.capPos
  have hle := h.hcntLe
  have hcnt := append_hcnt_eq_min x hle
  have hcell := modCap_of_lt s s.hwr h.hwrLt
  apply List.ext_getElem
  · simp only [List.length_append, List.length_drop, histSeq_length, List.length_singleton]
    omega
  · intro j hj _
    rw [histSeq_length] at hj
    rw [histSeq_getElem, oldestCell_append x hle, append_hist, hcell]
    by_cases hlast : s.hcnt + 1 - s.histCap + j < s.hcnt
    · have hkept := oldestCell_ne hlast (by omega : s.hcnt < s.hcnt + 1 - s.histCap + j + s.histCap)
      rw [oldestCell_hcnt h.hwrLt] at hkept
      rw [Memory.read_write_ne _ x hkept,
        List.getElem_append_left (by simp; omega), List.getElem_drop, histSeq_getElem]
    · have hnew : s.hcnt + 1 - s.histCap + j = s.hcnt := by omega
      rw [hnew, oldestCell_hcnt h.hwrLt, Memory.read_write_self, List.getElem_append_right (by simp; omega)]
      simp

/-! ### The ring's invariant -/

theorem forall_written_iff (s : State) :
    (∀ j, j < s.hcnt → (s.hist.read (oldestCell s j)).isSome = true) ↔ none ∉ histSeq s := by
  simp [histSeq, Option.isSome_iff_ne_none]

theorem ringInv_append (x : Sample) {s : State} (h : s.RingInv) : (append x s).RingInv where
  capPos := h.capPos
  capMax := h.capMax
  hwrLt := by
    rw [append_hwr, append_histCap]
    exact modCap_lt s _ h.capPos
  hcntLe := by
    rw [append_hcnt_eq_min x h.hcntLe]
    exact min_le_right _ _
  canonical := Memory.write_wf _ _ _ h.canonical
  inRange i y hi := by
    rw [append_hist, Memory.read_write] at hi
    split at hi
    next hw => exact hw ▸ modCap_lt s _ h.capPos
    next => exact h.inRange i y hi
  written := by
    rw [forall_written_iff, histSeq_append x h]
    have hold := (forall_written_iff s).1 h.written
    simpa using fun hm => hold (List.mem_of_mem_drop hm)

/-- `hist()` has no gap: it is a list of samples. -/
theorem exists_samples_of_ringInv {s : State} (h : s.RingInv) : ∃ xs : List Sample, histSeq s = xs.map some := by
  have hfull : histSeq s ∈ Set.range (List.map some) := by
    rw [Set.range_list_map]
    intro o ho
    obtain ⟨x, rfl⟩ := Option.ne_none_iff_exists'.1 (ne_of_mem_of_not_mem ho ((forall_written_iff s).1 h.written))
    exact ⟨x, rfl⟩
  obtain ⟨xs, hxs⟩ := hfull
  exact ⟨xs, hxs.symm⟩

/-! ### The two statements -/

/-- Settles O28: at capacity, and only there, `histSeq_append` drops one sample. -/
theorem appendOnSequenceAndArray : Obligations.AppendOnSequenceAndArray := by
  unfold Obligations.AppendOnSequenceAndArray
  intro x s h
  have hcell : (append x s).hist = s.hist.write s.hwr x := by rw [append_hist, modCap_of_lt s s.hwr h.hwrLt]
  refine ⟨?_, append_eq x h.hwrLt, ?_, fun i hi => ?_⟩
  · have hle := h.hcntLe
    rw [histSeq_append x h, histSeq_length]
    split
    next hfull => rw [hfull, Nat.add_sub_cancel_left]
    next hfree => rw [Nat.sub_eq_zero_of_le (by omega), List.drop_zero]
  · rw [hcell, Memory.read_write_self]
  · rw [hcell, Memory.read_write_ne _ x hi]

/-- Of the samples held before and those appended, the last HIST_CAP stay. -/
theorem histSeq_appendAll (xs : List Sample) {s : State} (h : s.RingInv) :
    histSeq (appendAll xs s) = (histSeq s ++ xs.map some).drop (s.hcnt + xs.length - s.histCap) := by
  induction xs generalizing s with
  | nil =>
    have hle := h.hcntLe
    rw [List.map_nil, List.append_nil, List.length_nil, Nat.sub_eq_zero_of_le (by omega), List.drop_zero]
    rfl
  | cons x xs ih =>
    have hcap := h.capPos
    have hle := h.hcntLe
    have hcnt := append_hcnt_eq_min x hle
    calc histSeq (appendAll xs (append x s))
        = (((histSeq s).drop (s.hcnt + 1 - s.histCap) ++ [some x]) ++ xs.map some).drop
            (min (s.hcnt + 1) s.histCap + xs.length - s.histCap) := by
          rw [ih (ringInv_append x h), histSeq_append x h, hcnt, append_histCap]
      _ = ((histSeq s ++ (x :: xs).map some).drop (s.hcnt + 1 - s.histCap)).drop
            (min (s.hcnt + 1) s.histCap + xs.length - s.histCap) := by
          rw [List.drop_append_of_le_length (l₁ := histSeq s) (by rw [histSeq_length]; omega), List.append_assoc]
          rfl
      _ = (histSeq s ++ (x :: xs).map some).drop (s.hcnt + (x :: xs).length - s.histCap) := by
          rw [List.drop_drop, List.length_cons]
          congr 1
          omega

/-- Settles O29: an empty history holds nothing before the appended samples. -/
theorem historyKeepsMostRecent : Obligations.HistoryKeepsMostRecent := by
  unfold Obligations.HistoryKeepsMostRecent
  intro xs s h hempty
  have hnil : histSeq s = [] := List.length_eq_zero_iff.1 (by rw [histSeq_length, hempty])
  rw [histSeq_appendAll xs h, hnil, hempty, List.nil_append, Nat.zero_add, List.map_drop]

end Sys2Proof.Machine
end

section
/-! PROOFS. The exact mean as a real number (43_history R138). -/

namespace Sys2Proof.Machine

@[simp] theorem value_nil : (⟨[]⟩ : ExactNum).value = 0 := rfl

@[simp] theorem value_cons (r : Nat) (q : Rat) (ts : List (Nat × Rat)) :
    (⟨(r, q) :: ts⟩ : ExactNum).value = q * (10 : ℝ) ^ ((r : ℝ) / 4000) + (⟨ts⟩ : ExactNum).value := rfl

theorem value_addTerm (r : Nat) (q : Rat) (ts : List (Nat × Rat)) :
    (⟨addTerm r q ts⟩ : ExactNum).value = q * (10 : ℝ) ^ ((r : ℝ) / 4000) + (⟨ts⟩ : ExactNum).value := by
  induction ts with
  | nil =>
    by_cases hq : q = 0 <;> simp [addTerm, hq]
  | cons t ts ih =>
    obtain ⟨r', q'⟩ := t
    rw [addTerm]
    split_ifs with hlt hq heq hsum
    · simp [hq]
    · simp
    · have hcancel : (q : ℝ) + q' = 0 := mod_cast hsum
      rw [value_cons, heq, ← add_assoc, ← add_mul, hcancel, zero_mul, zero_add]
    · rw [value_cons, value_cons, heq]
      push_cast
      ring
    · rw [value_cons, ih, value_cons]
      ring

theorem value_add (a b : ExactNum) : (a.add b).value = a.value + b.value := by
  obtain ⟨ts⟩ := a
  obtain ⟨us⟩ := b
  rw [ExactNum.add]
  induction us generalizing ts with
  | nil => simp
  | cons u us ih =>
    rw [List.foldl_cons, ih, value_addTerm, value_cons]
    ring

theorem value_divNat (a : ExactNum) (k : Nat) : (a.divNat k).value = a.value / k := by
  obtain ⟨ts⟩ := a
  induction ts with
  | nil => simp [ExactNum.divNat]
  | cons t ts ih =>
    rw [ExactNum.divNat] at ih ⊢
    rw [List.map_cons, value_cons, ih, value_cons]
    push_cast
    ring

/-- The pressures added from the left, whatever was added before them. -/
theorem value_foldl_add_pval (xs : List Sample) (a : ExactNum) :
    (xs.foldl (fun acc x => ExactNum.add acc (pval x.unit x.m)) a).value =
      a.value + (xs.map fun x => realPressure x.unit x.m).sum := by
  induction xs generalizing a with
  | nil => simp
  | cons x xs ih =>
    rw [List.foldl_cons, ih, value_add, pressureValueIsExact, List.map_cons, List.sum_cons, add_assoc]

theorem value_pressureMean (xs : List Sample) :
    (pressureMean xs).value = (xs.map fun x => realPressure x.unit x.m).sum / xs.length := by
  rw [pressureMean, value_divNat, pressureSum, value_foldl_add_pval, value_nil, zero_add]

end Sys2Proof.Machine
end

section
/-! PROOFS. AVG and CLR (43_history R138, R140). -/

namespace Sys2Proof.Machine

/-- AVG reads the last `k` samples of `hist()`, in newest-first order. -/
theorem readWindow_of_histSeq {s : State} {k : Nat} {xs : List Sample} (hk : k ≤ s.hcnt)
    (hxs : (histSeq s).drop (s.hcnt - k) = xs.map some) : readWindow s 0 k = some xs.reverse := by
  have hlen : xs.length = k := by
    have := congrArg List.length hxs
    rw [List.length_drop, histSeq_length, List.length_map] at this
    omega
  refine readWindow_eq_some.2 ⟨by rw [List.length_reverse, hlen], fun j hj => ?_⟩
  rw [List.length_reverse] at hj
  have hcell : s.hcnt - 1 - (0 + j) = s.hcnt - k + (xs.length - 1 - j) := by omega
  calc s.hist.read (newestCell s (0 + j))
      = ((histSeq s).drop (s.hcnt - k))[xs.length - 1 - j]'(by simp; omega) := by
        rw [List.getElem_drop, histSeq_getElem, newestCell_eq_oldestCell s _ (by omega), hcell]
    _ = some xs.reverse[j] := by simp only [hxs, List.getElem_map, List.getElem_reverse]

theorem exec_avg_of_window_empty {n : BitVec 16} {s : State} (h : min n.toNat s.hcnt = 0) :
    exec (.avg n) s = .next { s with resp := [.error .noData] } := by
  have hsize : windowSize n s = 0 := h
  rw [exec, execAvg, if_pos hsize, raiseToCaller_eq _ _ (.inl rfl)]

theorem exec_avg_of_histSeq {n : BitVec 16} {s : State} {xs : List Sample} (hpos : 0 < min n.toNat s.hcnt)
    (hxs : (histSeq s).drop (s.hcnt - min n.toNat s.hcnt) = xs.map some) :
    exec (.avg n) s = .next
      { s with resp := [.avg (portMean s.num xs.reverse) (BitVec.ofNat 16 (min n.toNat s.hcnt))] } := by
  have hread : readWindow s 0 (windowSize n s) = some xs.reverse := readWindow_of_histSeq (min_le_right _ _) hxs
  have hsize : windowSize n s ≠ 0 := hpos.ne'
  simp only [exec, execAvg, if_neg hsize, hread]
  rfl

/-- USED has 16 bits, as `n` has (30_encoding R81). -/
theorem toNat_ofNat_window (n : BitVec 16) (c : Nat) : (BitVec.ofNat 16 (min n.toNat c)).toNat = min n.toNat c :=
  by
  rw [BitVec.toNat_ofNat, Nat.mod_eq_of_lt (lt_of_le_of_lt (min_le_left _ _) n.isLt)]

/-- Settles O30: AVG adds the pressures newest first, which is the sum in the order of `hist()`. -/
theorem averageOfMostRecentSamples : Obligations.AverageOfMostRecentSamples := by
  unfold Obligations.AverageOfMostRecentSamples
  rintro n s k h rfl
  refine ⟨fun hzero => ⟨exec_avg_of_window_empty hzero, rfl⟩, fun hpos => ?_⟩
  obtain ⟨ys, hys⟩ := exists_samples_of_ringInv h
  have hlen : ys.length = s.hcnt := by rw [← histSeq_length s, hys, List.length_map]
  have hxs : (histSeq s).drop (s.hcnt - min n.toNat s.hcnt) =
      (ys.drop (s.hcnt - min n.toNat s.hcnt)).map some := by rw [hys, List.map_drop]
  have hcount : (ys.drop (s.hcnt - min n.toNat s.hcnt)).length = min n.toNat s.hcnt := by
    rw [List.length_drop, hlen]
    omega
  refine ⟨_, _, _, hxs, hcount, toNat_ofNat_window n s.hcnt, exec_avg_of_histSeq hpos hxs, fun hnum => ?_⟩
  refine ⟨_, by rw [hnum]; rfl, ?_⟩
  rw [value_pressureMean, List.length_reverse, hcount, List.map_reverse, List.sum_reverse]

theorem exec_clr (s : State) : exec .clr s = .next { s with hcnt := 0, hwr := 0, resp := [.clr] } := rfl

/-- Settles O33: with HCNT = 0 no cell is in `hist()`, whatever the cells hold. -/
theorem clearEmptiesHistory : Obligations.ClearEmptiesHistory := by
  unfold Obligations.ClearEmptiesHistory
  exact fun s => ⟨_, exec_clr s, rfl, rfl⟩

end Sys2Proof.Machine
end

section
/-! PROOFS. SNAP and VER (44_query R150, R152). -/

namespace Sys2Proof.Machine

theorem exec_snap_of_rvalid {s : State} (h : s.rvalid = true) :
    exec .snap s = .next { s with resp := [.snap (snapshot s)] } := by
  rw [exec, execSnap, if_pos h]
  rfl

theorem exec_snap_of_not_rvalid {s : State} (h : s.rvalid = false) :
    exec .snap s = .next { s with resp := [.error .noData] } := by
  rw [exec, execSnap, if_neg (Bool.eq_false_iff.1 h), raiseToCaller_eq _ _ (.inl rfl)]

theorem portPressure_exact (u : PressureUnit) (m : BitVec 16) : portPressure .exact u m = .exact (pval u m) := rfl

/-- Settles O38: the pressure answered is `portPressure` of R_UNIT and R_M, the other fields are the registers. -/
theorem snapshotOfReading : Obligations.SnapshotOfReading := by
  unfold Obligations.SnapshotOfReading
  intro s
  refine ⟨fun h => ⟨portPressure s.num s.rUnit s.rM, exec_snap_of_rvalid h, fun hnum => ?_⟩,
    fun h => ⟨exec_snap_of_not_rvalid h, rfl⟩⟩
  rw [hnum, portPressure_exact]

theorem exec_ver (s : State) : exec .ver s = .next { s with resp := [.ver s.fwvalid s.fwver] } := rfl

theorem firmwareVersion_eq (s : State) :
    firmwareVersion s = if s.fwvalid = true then some ((s.fwver.toNat : Rat) / 20) else none := by
  rw [firmwareVersion, Rat.mkRat_eq_div]
  rfl

/-- Settles O40: the rational `mkRat FWVER 20` of the model is the quotient `FWVER / 20`. -/
theorem versionQuery : Obligations.VersionQuery := by
  unfold Obligations.VersionQuery
  exact fun s => ⟨exec_ver s, firmwareVersion_eq s⟩

end Sys2Proof.Machine
end

section
/-! PROOFS. The command encoder (45_command R160). -/

namespace Sys2Proof.Machine

/-- R160: the marker 03, the payload, and the sum of the payload alone (R93: the marker is not summed). -/
theorem commandFrame_eq (p0 p1 p2 : Byte) : commandFrame p0 p1 p2 = [0x03, p0, p1, p2, p0 + p1 + p2] := by
  have hsum : chk8 [p0, p1, p2] = p0 + p1 + p2 := by
    rw [chk8_cons, chk8_cons, chk8_cons, chk8_nil, add_zero, add_assoc]
  rw [commandFrame, hsum, Config.cmdMark]

theorem exec_enc_of_len_eq (p0 p1 p2 : Byte) (s : State) :
    exec (.enc 3 p0 p1 p2) s = .next { s with resp := [.enc (commandFrame p0 p1 p2)] } := rfl

theorem exec_enc_of_len_ne {len : BitVec 4} (h : len ≠ 3) (p0 p1 p2 : Byte) (s : State) :
    exec (.enc len p0 p1 p2) s = .next { s with resp := [.error .commandConstruction] } := by
  have hlen : len.toNat ≠ Config.cmdPayloadLen := fun e => h (BitVec.eq_of_toNat_eq e)
  rw [exec, execEnc, if_pos hlen, raiseToCaller_eq _ _ (.inr (.inl rfl))]

/-- Settles O43: the two lengths by the branch of `execEnc`, the frame's bytes by the checksum's sum. -/
theorem encodeBuildsCommandFrame : Obligations.EncodeBuildsCommandFrame := by
  unfold Obligations.EncodeBuildsCommandFrame
  intro len p0 p1 p2 s
  refine ⟨?_, fun hne => ⟨exec_enc_of_len_ne hne p0 p1 p2 s, rfl⟩⟩
  rintro rfl
  rw [exec_enc_of_len_eq, commandFrame_eq]

end Sys2Proof.Machine
end

section
/-! PROOFS. Reset, and the receive port that is always ready (70_reset_and_hazards R195, R196, R204). -/

namespace Sys2Proof.Machine

/-- Settles O17: RXB answers the end of its run, and the run has its frame lemmas. -/
theorem receiveAlwaysCompletes : Obligations.ReceiveAlwaysCompletes := by
  unfold Obligations.ReceiveAlwaysCompletes
  intro b t s
  exact ⟨_, _, _, exec_rxb b t s, rfl, rxRun_pending .., rxRun_histCap .., rxRun_wTs .., rxRun_num ..⟩

/-- R196: of the old state a new session keeps the cells, the parameters, what is offered next and the records. -/
theorem startSession_eq (s : State) :
    startSession s =
      { State.reset with
        hist := s.hist, histCap := s.histCap, wTs := s.wTs, num := s.num, pending := s.pending
        resp := s.resp } := rfl

theorem exec_rst (s : State) : exec .rst s = .next (respond [.rst] (startSession s)) := rfl

theorem exec_rst_idempotent {s s' : State} (h : exec .rst s = .next s') : exec .rst s' = .next s' := by
  rw [exec_rst] at h
  cases h
  rw [exec_rst, startSession_eq, startSession_eq]
  rfl

theorem step_resetInput {s : State} {rest : List PortWord} (h : s.pending = .resetInput :: rest) :
    step s = exec .rst { s with pending := rest } := by
  rw [step_accept h, decode]

/-- Settles O45: a new session is the reset state but for what R196 keeps, and the reset input decodes to RST. -/
theorem rstStartsSession : Obligations.RstStartsSession := by
  unfold Obligations.RstStartsSession
  intro s
  refine ⟨?_, fun _ => exec_rst_idempotent, fun _ => step_resetInput⟩
  rw [exec_rst, startSession_eq, respond]

end Sys2Proof.Machine
end

section
/-! PROOFS. What an operation can do to the state, and the properties every operation of a session keeps. -/

namespace Sys2Proof.Machine

/-! ### The effect of an operation -/

theorem contained_of_st {r : Response} {x : BitVec 4} (h : r.st = some x) (h1 : x ≠ 1) (h2 : x ≠ 2) :
    r.contained := by
  rw [Response.contained, h]
  exact ⟨fun he => h1 (Option.some.inj he), fun he => h2 (Option.some.inj he)⟩

theorem contained_of_st_zero {r : Response} (h : r.st = some 0) : r.contained :=
  contained_of_st h (by decide) (by decide)

theorem contained_rx (ev : RxEvent) (n : Nat) : (Response.rx ev n).contained := ⟨nofun, nofun⟩

theorem contained_rxChunk (t : Time) (bs : List Byte) (s : State) : ∀ r ∈ (rxChunk t bs s).2, r.contained := by
  induction bs generalizing s with
  | nil => exact fun _ h => absurd h List.not_mem_nil
  | cons b bs ih =>
    simp only [rxChunk, List.forall_mem_cons]
    exact ⟨contained_rx _ _, ih _⟩

/-- The operations that answer a caller from the state and leave it as it is (10_state R30). -/
def onlyReads : Instr → Bool
  | .avg _ | .snap | .var | .ver | .stat | .enc _ _ _ _ | .cmdframe _ _ _ _ => true
  | .rxb _ _ | .clr | .rst | .frame _ _ _ _ _ _ _ _ => false

theorem exec_onlyReads_next {i : Instr} {s s' : State} (hi : onlyReads i = true) (h : exec i s = .next s') :
    ∃ r, s' = { s with resp := [r] } ∧ r.contained := by
  cases i with
  | rxb | clr | rst | frame => cases hi
  | avg n =>
    obtain ⟨r, rfl, rfl | ⟨m, u, rfl⟩⟩ := exec_avg_next h
    · exact ⟨_, rfl, contained_of_st (x := 3) rfl (by decide) (by decide)⟩
    · exact ⟨_, rfl, contained_of_st_zero rfl⟩
  | snap =>
    obtain ⟨r, rfl, rfl | ⟨x, rfl⟩⟩ := exec_snap_next h
    · exact ⟨_, rfl, contained_of_st (x := 3) rfl (by decide) (by decide)⟩
    · exact ⟨_, rfl, contained_of_st_zero rfl⟩
  | enc len p0 p1 p2 =>
    obtain ⟨r, rfl, rfl | ⟨f, rfl⟩⟩ := exec_enc_next h
    · exact ⟨_, rfl, contained_of_st (x := 4) rfl (by decide) (by decide)⟩
    · exact ⟨_, rfl, contained_of_st_zero rfl⟩
  | cmdframe p0 p1 p2 c => exact ⟨_, exec_cmdframe_next h, contained_of_st_zero rfl⟩
  | var | ver | stat => cases h; exact ⟨_, rfl, contained_of_st_zero rfl⟩

/-- What an operation does to the state but for the response it gives. -/
inductive Effect (s : State) : Instr → State → Prop where
  | read {i : Instr} (hi : onlyReads i = true) : Effect s i s
  | clear : Effect s .clr { s with hcnt := 0, hwr := 0 }
  | start : Effect s .rst (startSession s)
  | receive (b : Byte) (t : Time) : Effect s (.rxb b t) (rxRun b (timeInput s t) s).st
  | receiveFrame (st eb hi lo vb tb c : Byte) (t : Time) :
    Effect s (.frame st eb hi lo vb tb c t)
      (rxChunk (timeInput s t) [Config.mark0, Config.mark1, st, eb, hi, lo, vb, tb, c] s).1

/-- An operation that answers a next state has its effect and gives responses without the codes 1 and 2. -/
theorem exec_next_effect {i : Instr} {s s' : State} (h : exec i s = .next s') :
    ∃ u rs, Effect s i u ∧ s' = respond rs u ∧ ∀ r ∈ rs, r.contained := by
  cases hi : onlyReads i with
  | true =>
    obtain ⟨r, hs', hr⟩ := exec_onlyReads_next hi h
    exact ⟨s, [r], .read hi, hs', List.forall_mem_singleton.2 hr⟩
  | false =>
    cases i with
    | avg | snap | var | ver | stat | enc | cmdframe => cases hi
    | rxb b t =>
      rw [exec_rxb] at h
      cases h
      exact ⟨_, _, .receive b t, rfl, List.forall_mem_singleton.2 (contained_rx _ _)⟩
    | frame st eb hi lo vb tb c t =>
      rw [exec_frame] at h
      cases h
      exact ⟨_, _, .receiveFrame .., rfl, contained_rxChunk _ _ _⟩
    | clr =>
      cases h
      exact ⟨_, _, .clear, rfl, List.forall_mem_singleton.2 (contained_of_st_zero rfl)⟩
    | rst =>
      cases h
      exact ⟨_, _, .start, rfl, List.forall_mem_singleton.2 (contained_of_st_zero rfl)⟩

/-! ### Properties kept by every operation but RST -/

/-- What makes up the operations of a session keeps `P`: changes of the ports and of the receive buffer, FERR set,
DECODE with a TIME value of W_TS bits, and CLR. -/
structure KeptInSession (P : State → Prop) : Prop where
  ports : ∀ {s : State} {buf sync pend rs}, P s →
    P { s with rxbuf := buf, sync := sync, pending := pend, resp := rs }
  framing : ∀ {s : State}, P s → P { s with ferr := true }
  decode : ∀ {s : State} {t : Time} (f : List Byte), t < 2 ^ s.wTs → P s → P (decodeFrame f t s).1
  clear : ∀ {s : State}, P s → P { s with hcnt := 0, hwr := 0 }

namespace KeptInSession

variable {P : State → Prop} (hP : KeptInSession P)
include hP

theorem rxLoop {t : Time} {n : Nat} {r : RxRun} (ht : t < 2 ^ r.st.wTs) (h : P r.st) : P (rxLoop t n r).st := by
  induction n generalizing r with
  | zero => exact h
  | succ n ih =>
    cases hs : r.st.sync with
    | false =>
      cases hk : scan r.st.rxbuf with
      | none =>
        rw [rxLoop_discard hs hk]
        exact hP.ports h
      | some k =>
        rw [rxLoop_found hs hk]
        exact ih ht (hP.ports h)
    | true =>
      by_cases hl : r.st.rxbuf.length < 9
      · rw [rxLoop_wait hs hl]
        exact h
      · cases hc : candidateCause (r.st.rxbuf.take 9) with
        | none =>
          rw [rxLoop_valid hs hl hc]
          exact ih (by simpa using ht) (hP.decode _ ht (hP.ports h))
        | some c =>
          rw [rxLoop_invalid hs hl hc]
          exact ih ht (hP.ports (hP.framing h))

theorem rxRun {b : Byte} {t : Time} {s : State} (ht : t < 2 ^ s.wTs) (h : P s) : P (rxRun b t s).st :=
  hP.rxLoop ht (hP.ports h)

theorem rxChunk {t : Time} {bs : List Byte} {s : State} (ht : t < 2 ^ s.wTs) (h : P s) : P (rxChunk t bs s).1 := by
  induction bs generalizing s with
  | nil => exact h
  | cons b bs ih => exact ih (by simpa using ht) (hP.rxRun ht h)

theorem exec {i : Instr} {s s' : State} (hrst : i = .rst → P (startSession s)) (hx : exec i s = .next s') (h : P s) :
    P s' := by
  obtain ⟨u, rs, he, rfl, -⟩ := exec_next_effect hx
  suffices P u from hP.ports this
  cases he with
  | read => exact h
  | clear => exact hP.clear h
  | start => exact hrst rfl
  | receive b t => exact hP.rxRun (timeInput_lt s t) h
  | receiveFrame => exact hP.rxChunk (timeInput_lt s _) h

theorem step {s s' : State}
    (hrst : (∀ p ∈ s.pending.head?, startsSession p = false) ∨ ∀ u, P u → P (startSession u))
    (hstep : step s = .next s') (h : P s) : P s' := by
  obtain ⟨-, rfl⟩ | ⟨p, rest, i, hp, hd, hx⟩ | ⟨p, rest, e, -, -, rfl⟩ := step_next_cases hstep
  · exact h
  · refine hP.exec (fun hi => ?_) hx (hP.ports h)
    obtain hno | hstart := hrst
    · have hs : startsSession p = true := by rw [startsSession, hd, hi]
      exact absurd hs (Bool.eq_false_iff.1 (hno p (by simp [hp])))
    · exact hstart _ (hP.ports h)
  · exact hP.ports h

end KeptInSession

end Sys2Proof.Machine
end

section
/-! PROOFS. The machine's invariant holds at reset and every step keeps it. -/

namespace Sys2Proof.Machine

/-! ### The ring, the session's registers and the TIME values -/

theorem ringInv_congr {s s' : State} (h : s.RingInv) (hist : s'.hist = s.hist) (hwr : s'.hwr = s.hwr)
    (hcnt : s'.hcnt = s.hcnt) (cap : s'.histCap = s.histCap) : s'.RingInv where
  capPos := cap ▸ h.capPos
  capMax := cap ▸ h.capMax
  hwrLt := by rw [hwr, cap]; exact h.hwrLt
  hcntLe := by rw [hcnt, cap]; exact h.hcntLe
  canonical := hist ▸ h.canonical
  inRange := by rw [hist, cap]; exact h.inRange
  written := by
    simp only [oldestCell, modCap, hist, hwr, hcnt, cap]
    exact h.written

theorem ringInv_clear {s : State} (h : s.RingInv) : ({ s with hcnt := 0, hwr := 0 } : State).RingInv where
  capPos := h.capPos
  capMax := h.capMax
  hwrLt := h.capPos
  hcntLe := Nat.zero_le _
  canonical := h.canonical
  inRange := h.inRange
  written j hj := absurd hj (Nat.not_lt_zero j)

theorem ringInv_startSession {s : State} (h : s.RingInv) : (startSession s).RingInv :=
  ringInv_congr (ringInv_clear h) rfl rfl rfl rfl

theorem ringInv_keptInSession : KeptInSession State.RingInv where
  ports h := ringInv_congr h rfl rfl rfl rfl
  framing h := ringInv_congr h rfl rfl rfl rfl
  decode {s t} f _ h := by
    obtain ⟨e, -, hd⟩ | ⟨d, -, hd⟩ := decodeFrame_cases f t s <;> rw [hd]
    · exact ringInv_congr h rfl rfl rfl rfl
    · exact ringInv_append _ (ringInv_congr h rfl rfl rfl rfl)
  clear h := ringInv_clear h

theorem DecodeField.code_ne_zero (e : DecodeField) : e.code ≠ 0 := by cases e <;> decide

/-- The error byte is read under ITR90 and only there (42_decode R111). -/
theorem errFields_eq_some {v : Variant} {st eb : Byte} {ec : ErrCode} {adj x90 : Bool}
    (h : errFields v st eb = some (ec, adj, x90)) :
    (v = .itr90 ∧ x90 = true ∧ errOf eb = some ec ∧ adj = adjOf st) ∨
    (v ≠ .itr90 ∧ x90 = false ∧ ec = .noError ∧ adj = false) := by
  cases v with
  | itr90 =>
    obtain ⟨c, hc, he⟩ := Option.map_eq_some_iff.1 h
    cases he
    exact .inl ⟨rfl, rfl, hc, rfl⟩
  | none | itr200 => cases h; exact .inr ⟨nofun, rfl, rfl, rfl⟩

theorem sessionInv_commit {s : State} {f : List Byte} {d : Decoded} (t : Time) (h : s.SessionInv)
    (hd : decodeFields s.variant s.vlock f = .ok d) : (commit d t s).SessionInv := by
  obtain ⟨-, herr, -, htype, -⟩ := decodeFields_ok hd
  have herr := errFields_eq_some herr
  refine ⟨rfl, ?_, rfl, h.field, fun hx => ?_, fun hx => ?_, nofun⟩
  · cases hl : s.vlock with
    | true => simpa [hl] using h.resolved.1 hl
    | false => simpa [hl] using htype hl
  · obtain ⟨hv, -⟩ | ⟨-, hx', -⟩ := herr
    · have hl : s.vlock = true := h.resolved.2 (by simp [hv])
      simp [hl, hv]
    · exact absurd hx (by simp [hx'])
  · obtain ⟨-, hx', -⟩ | ⟨-, -, hec, hadj⟩ := herr
    · exact absurd hx (by simp [hx'])
    · exact ⟨hec, hadj⟩

theorem sessionInv_keptInSession : KeptInSession State.SessionInv where
  ports h := ⟨h.lock, h.resolved, h.version, h.field, h.strategy, h.noCode, h.noSample⟩
  framing h := ⟨h.lock, h.resolved, h.version, h.field, h.strategy, h.noCode, h.noSample⟩
  decode {s t} f _ h := by
    obtain ⟨e, -, he⟩ | ⟨d, hd, he⟩ := decodeFrame_cases f t s <;> rw [he]
    · exact ⟨h.lock, h.resolved, h.version, iff_of_true rfl e.code_ne_zero, h.strategy, h.noCode, h.noSample⟩
    · exact sessionInv_commit t h hd
  clear h := ⟨h.lock, h.resolved, h.version, h.field, h.strategy, h.noCode, fun _ => rfl⟩

theorem sessionInv_startSession (s : State) : (startSession s).SessionInv where
  lock := rfl
  resolved := by simp
  version := rfl
  field := by simp
  strategy := nofun
  noCode _ := ⟨rfl, rfl⟩
  noSample _ := rfl

theorem timeInv_commit {s : State} (d : Decoded) {t : Time} (ht : t < 2 ^ s.wTs) (h : s.TimeInv) :
    (commit d t s).TimeInv where
  reading := ht
  cells i x hi := by
    rw [commit_hist, Memory.read_write] at hi
    split at hi
    next => cases hi; exact ht
    next => exact h.cells i x hi

theorem timeInv_keptInSession : KeptInSession State.TimeInv where
  ports h := ⟨h.reading, h.cells⟩
  framing h := ⟨h.reading, h.cells⟩
  decode {s t} f ht h := by
    obtain ⟨e, -, he⟩ | ⟨d, -, he⟩ := decodeFrame_cases f t s <;> rw [he]
    · exact ⟨h.reading, h.cells⟩
    · exact timeInv_commit d ht h
  clear h := ⟨h.reading, h.cells⟩

theorem timeInv_startSession {s : State} (h : s.TimeInv) : (startSession s).TimeInv where
  reading := Nat.two_pow_pos _
  cells := h.cells

/-! ### The receive buffer -/

/-- What an RXB step can do between operations: a valid candidate goes to DECODE, or no frame is handed over and
the received bytes are split into those still buffered and those discarded (41_framesync R105). -/
theorem rxRun_cases (b : Byte) (t : Time) {s : State} (h : s.BufInv) :
    (s.sync = true ∧ validFrame (s.rxbuf ++ [b]) = true ∧
      rxRun b t s =
        ⟨(decodeFrame (s.rxbuf ++ [b]) t { s with rxbuf := [] }).1,
         (decodeFrame (s.rxbuf ++ [b]) t { s with rxbuf := [] }).2, 0⟩) ∨
    ∃ buf sync ferr ev nd, rxRun b t s = ⟨{ s with rxbuf := buf, sync := sync, ferr := ferr }, ev, nd⟩ ∧
      (ev = .none ∧ ferr = s.ferr ∨ ∃ c, ev = .framing c ∧ ferr = true) ∧
      (sync = false → buf = []) ∧ buf.length ≤ 8 ∧ buf.length + nd = s.rxbuf.length + 1 := by
  obtain hs | hs := Bool.eq_false_or_eq_true s.sync
  · obtain hl | hl := Nat.lt_or_eq_of_le h.short
    · exact .inr ⟨_, _, _, _, _, rxRun_wait hs hl, .inl ⟨rfl, rfl⟩, by simp [hs], by simpa using hl, by simp⟩
    · cases hv : validFrame (s.rxbuf ++ [b]) with
      | true => exact .inl ⟨hs, rfl, rxRun_valid hs hl (candidateCause_of_valid hv)⟩
      | false =>
        have hc := candidateCause_of_not_valid hv
        right
        by_cases hm : Config.mark0 ∈ (s.rxbuf ++ [b]).drop 1
        · obtain ⟨pre, post, hcut, hpre⟩ := List.eq_append_cons_of_mem hm
          have hlen : pre.length + (post.length + 1) = 8 := by simpa [hl] using (congrArg List.length hcut).symm
          exact ⟨_, _, _, _, _, rxRun_invalid_rescan hs hl hc hcut hpre, .inr ⟨_, rfl, rfl⟩, nofun,
            by rw [List.length_cons]; omega, by rw [List.length_cons]; omega⟩
        · exact ⟨_, _, _, _, _, rxRun_invalid_empty hs hl hc hm, .inr ⟨_, rfl, rfl⟩, fun _ => rfl,
            by simp, by simp [hl]⟩
  · have he := h.empty hs
    right
    by_cases hb : b = Config.mark0
    · subst hb
      exact ⟨_, _, _, _, _, rxRun_mark hs he, .inl ⟨rfl, rfl⟩, nofun, by simp, by simp [he]⟩
    · exact ⟨_, _, _, _, _, rxRun_other hs he hb, .inl ⟨rfl, rfl⟩, fun _ => rfl, by simp, by simp [he]⟩

theorem bufInv_rxRun (b : Byte) (t : Time) {s : State} (h : s.BufInv) : (rxRun b t s).st.BufInv := by
  obtain ⟨-, -, hr⟩ | ⟨buf, sync, ferr, ev, nd, hr, -, hempty, hlen, -⟩ := rxRun_cases b t h <;> rw [hr]
  · exact bufInv_of_empty (by simp)
  · exact ⟨hlen, hempty⟩

theorem bufInv_rxChunk (t : Time) (bs : List Byte) {s : State} (h : s.BufInv) : (rxChunk t bs s).1.BufInv := by
  induction bs generalizing s with
  | nil => exact h
  | cons b bs ih => exact ih (bufInv_rxRun b t h)

theorem bufInv_effect {i : Instr} {s u : State} (h : s.BufInv) (he : Effect s i u) : u.BufInv := by
  cases he with
  | read => exact h
  | clear => exact ⟨h.short, h.empty⟩
  | start => exact bufInv_of_empty rfl
  | receive => exact bufInv_rxRun _ _ h
  | receiveFrame => exact bufInv_rxChunk _ _ h

/-! ### The invariant -/

/-- The invariant does not look at what is offered next, and at the responses only for their codes. -/
theorem inv_ports {s : State} (h : s.Inv) (pend : List PortWord) {rs : List Response}
    (hrs : ∀ r ∈ rs, r.contained) : ({ s with pending := pend, resp := rs } : State).Inv where
  buf := ⟨h.buf.short, h.buf.empty⟩
  ring := ringInv_keptInSession.ports h.ring
  session := sessionInv_keptInSession.ports h.session
  time := timeInv_keptInSession.ports h.time
  responses := hrs

theorem exec_keeps_inv {i : Instr} {s s' : State} (h : s.Inv) (hx : exec i s = .next s') : s'.Inv where
  buf := by
    obtain ⟨u, rs, he, rfl, -⟩ := exec_next_effect hx
    have hu := bufInv_effect h.buf he
    exact ⟨hu.short, hu.empty⟩
  ring := ringInv_keptInSession.exec (fun _ => ringInv_startSession h.ring) hx h.ring
  session := sessionInv_keptInSession.exec (fun _ => sessionInv_startSession s) hx h.session
  time := timeInv_keptInSession.exec (fun _ => timeInv_startSession h.time) hx h.time
  responses := by
    obtain ⟨u, rs, -, rfl, hrs⟩ := exec_next_effect hx
    exact hrs

/-- Settles O6: the parts of the invariant are kept by the operation performed; the idle step and
IllegalOperation touch none of them. -/
theorem stepKeepsInvariant : Obligations.StepKeepsInvariant := by
  unfold Obligations.StepKeepsInvariant
  intro s s' h hstep
  obtain ⟨-, rfl⟩ | ⟨p, rest, i, -, -, hx⟩ | ⟨p, rest, e, -, -, rfl⟩ := step_next_cases hstep
  · exact h
  · exact exec_keeps_inv (inv_ports h rest h.responses) hx
  · exact inv_ports h rest
      (List.forall_mem_singleton.2 (contained_of_st (x := 5) rfl (by decide) (by decide)))

/-- Settles O2: the reset state is the start of a session on empty cells. -/
theorem resetMeetsInvariant : Obligations.ResetMeetsInvariant := by
  unfold Obligations.ResetMeetsInvariant
  exact {
    buf := bufInv_of_empty rfl
    ring := ⟨by decide, by decide, by decide, by decide, reset_hist_wf, nofun, nofun⟩
    session := sessionInv_startSession State.reset
    time := ⟨by decide, nofun⟩
    responses := List.forall_mem_nil _ }

/-! ### What only a reset undoes -/

/-- The session is locked to `v` and to firmware version `w` (10_state R15, R18). -/
def LockedTo (v : Variant) (w : Byte) (s : State) : Prop :=
  s.vlock = true ∧ s.variant = v ∧ s.fwvalid = true ∧ s.fwver = w

theorem lockedTo_commit {v : Variant} {w : Byte} {s : State} (d : Decoded) (t : Time) (h : LockedTo v w s) :
    LockedTo v w (commit d t s) := by
  obtain ⟨hl, hv, hf, hw⟩ := h
  exact ⟨rfl, by simp [hl, hv], rfl, by simp [hf, hw]⟩

theorem lockedTo_keptInSession (v : Variant) (w : Byte) : KeptInSession (LockedTo v w) where
  ports h := h
  framing h := h
  decode {s t} f _ h := by
    obtain ⟨e, -, he⟩ | ⟨d, -, he⟩ := decodeFrame_cases f t s <;> rw [he]
    · exact h
    · exact lockedTo_commit d t h
  clear h := h

/-- Settles O47: a commit writes the sticky registers while their flag is clear, and nothing else but a reset
does. -/
theorem lockHoldsUntilReset : Obligations.LockHoldsUntilReset := by
  unfold Obligations.LockHoldsUntilReset
  intro s s' hl hf hno hstep
  exact (lockedTo_keptInSession s.variant s.fwver).step (.inl hno) hstep ⟨hl, rfl, hf, rfl⟩

/-- Each sticky flag set in `s` is set in `u` (10_state R19). -/
def KeepsFlags (s u : State) : Prop :=
  (s.ferr = true → u.ferr = true) ∧ (s.derr = true → u.derr = true) ∧
    (s.dfield ≠ 0 → u.dfield ≠ 0) ∧ (s.tmis = true → u.tmis = true)

theorem keepsFlags_keptInSession (s : State) : KeptInSession (KeepsFlags s) where
  ports h := h
  framing := fun ⟨_, hd, hf, hm⟩ => ⟨fun _ => rfl, hd, hf, hm⟩
  decode {u t} f _ := fun ⟨hfe, hd, hf, hm⟩ => by
    obtain ⟨e, -, he⟩ | ⟨d, -, he⟩ := decodeFrame_cases f t u <;> rw [he]
    · exact ⟨hfe, fun _ => rfl, fun _ => e.code_ne_zero, hm⟩
    · exact ⟨hfe, hd, hf, fun hs => by simp [hm hs]⟩
  clear h := h

/-- Settles O48: an exception sets its flags, a commit adds to TMIS, and nothing else but a reset writes them. -/
theorem stickyFlagsClearOnlyByReset : Obligations.StickyFlagsClearOnlyByReset := by
  unfold Obligations.StickyFlagsClearOnlyByReset
  intro s s' hno hstep
  exact (keepsFlags_keptInSession s).step (.inl hno) hstep ⟨id, id, id, id⟩

/-- The parameters of the block (00_scope R6). -/
def HasParameters (c w : Nat) (f : NumFormat) (s : State) : Prop := s.histCap = c ∧ s.wTs = w ∧ s.num = f

theorem hasParameters_keptInSession (c w : Nat) (f : NumFormat) : KeptInSession (HasParameters c w f) where
  ports h := h
  framing h := h
  decode _ _ h := by simpa [HasParameters] using h
  clear h := h

/-- Settles O53: the operations of a session keep the parameters, and a new session does. -/
theorem parametersNeverChange : Obligations.ParametersNeverChange := by
  unfold Obligations.ParametersNeverChange
  intro s s' hstep
  exact (hasParameters_keptInSession s.histCap s.wTs s.num).step (.inr fun _ h => h) hstep ⟨rfl, rfl, rfl⟩

end Sys2Proof.Machine
end

section
/-! PROOFS. Decoder and encoder are each other's inverse, and the opcode map has disjoint rows (30_encoding). -/

namespace Sys2Proof

/-! ### Decoding an encoding: each field is read back from its place in the concatenation -/

theorem decode_encode_avg (n : BitVec 16) : decode (encode (.avg n)) = .ok (.avg n) := by
  have hw : (0x1 : BitVec 4) ++ ((0 : BitVec 12) ++ n) = (0x1000 : BitVec 16) ++ n := by
    rw [show (0x1000 : BitVec 16) = (0x1 : BitVec 4) ++ (0 : BitVec 12) from rfl, BitVec.append_assoc]
    rfl
  rw [encode, encodeQuery, decode, hw, decodeQuery_avg]

/-- Below the opcode of ENC the operand fields lie as in the 28 operand bits. -/
theorem decodeQuery_enc_fields (x : BitVec 28) :
    decodeQuery ((0x7 : BitVec 4) ++ x) =
      .ok (.enc (x.extractLsb' 24 4) (x.extractLsb' 16 8) (x.extractLsb' 8 8) (x.extractLsb' 0 8)) := by
  have hop : ((0x7 : BitVec 4) ++ x).extractLsb' 28 4 = 0x7 := BitVec.extractLsb'_append_eq_left
  simp only [decodeQuery, hop]
  simp (disch := decide) only [BitVec.extractLsb'_append_eq_of_add_le]
  rfl

theorem decode_encode_enc (len : BitVec 4) (p0 p1 p2 : Byte) :
    decode (encode (.enc len p0 p1 p2)) = .ok (.enc len p0 p1 p2) := by
  rw [encode, encodeQuery, decode, decodeQuery_enc_fields]
  simp (disch := decide) only [BitVec.extractLsb'_append_eq_of_le, BitVec.extractLsb'_append_eq_right,
    BitVec.extractLsb'_eq_self, Nat.reduceSub]

theorem decode_encode_frame (st eb hi lo vb tb c : Byte) (t : Time) :
    decode (encode (.frame st eb hi lo vb tb c t)) = .ok (.frame st eb hi lo vb tb c t) := by
  simp (disch := decide) only [encode, decode, decodeWireIn, BitVec.extractLsb'_append_eq_of_le,
    BitVec.extractLsb'_append_eq_right, BitVec.extractLsb'_eq_self, Nat.reduceSub, if_true]

theorem decode_encode_cmdframe (p0 p1 p2 c : Byte) :
    decode (encode (.cmdframe p0 p1 p2 c)) = .ok (.cmdframe p0 p1 p2 c) := by
  simp (disch := decide) only [encode, decode, decodeWireOut, BitVec.extractLsb'_append_eq_of_le,
    BitVec.extractLsb'_append_eq_right, BitVec.extractLsb'_eq_self, Nat.reduceSub, if_true]

theorem decode_encode (i : Instr) : decode (encode i) = .ok i := by
  cases i with
  | rxb b t => rfl
  | avg n => exact decode_encode_avg n
  | enc len p0 p1 p2 => exact decode_encode_enc len p0 p1 p2
  | frame st eb hi lo vb tb c t => exact decode_encode_frame st eb hi lo vb tb c t
  | cmdframe p0 p1 p2 c => exact decode_encode_cmdframe p0 p1 p2 c
  | clr | snap | var | ver | stat | rst => decide

/-- Settles O10, one instruction at a time. -/
theorem decodeEncodeRoundTrip : Obligations.DecodeEncodeRoundTrip := by
  unfold Obligations.DecodeEncodeRoundTrip
  exact decode_encode

/-! ### Encoding what was decoded: the fields read are joined again -/

theorem encode_of_decodeWireIn {f : BitVec 72} {t : Time} {i : Instr} (h : decodeWireIn f t = .ok i) :
    encode i = .wireIn f t := by
  unfold decodeWireIn at h
  split at h
  next hm =>
    cases h
    rw [encode, ← hm, extractLsb'_join 48 8 16, extractLsb'_join 40 8 24, extractLsb'_join 32 8 32,
      extractLsb'_join 24 8 40, extractLsb'_join 16 8 48, extractLsb'_join 8 8 56, extractLsb'_join 0 8 64,
      BitVec.extractLsb'_eq_self]
  next => cases h

theorem encode_of_decodeWireOut {c : BitVec 40} {i : Instr} (h : decodeWireOut c = .ok i) :
    encode i = .wireOut c := by
  unfold decodeWireOut at h
  split at h
  next hm =>
    cases h
    rw [encode, ← hm, extractLsb'_join 24 8 8, extractLsb'_join 16 8 16, extractLsb'_join 8 8 24,
      extractLsb'_join 0 8 32, BitVec.extractLsb'_eq_self]
  next => cases h

/-- Settles O11, one port at a time; the reset input shares its instruction with RST's query word. -/
theorem encodeDecodeRoundTrip : Obligations.EncodeDecodeRoundTrip := by
  unfold Obligations.EncodeDecodeRoundTrip
  intro p i hp h
  cases p with
  | rx b t => cases h; rfl
  | query w => exact encode_of_decodeQuery h
  | wireIn f t => exact encode_of_decodeWireIn h
  | wireOut c => exact encode_of_decodeWireOut h
  | resetInput => exact absurd rfl hp

/-! ### The opcode map -/

theorem queryMap_mnemonic_injective :
    ∀ r ∈ queryMap, ∀ r' ∈ queryMap, r.mnemonic = r'.mnemonic → r = r' := by decide

/-- Settles O12: a word that fits a row decodes to that row's operation (O13), and it decodes to one only. -/
theorem queryMapRowsAreDisjoint : Obligations.QueryMapRowsAreDisjoint := by
  unfold Obligations.QueryMapRowsAreDisjoint
  intro w r r' hr hr' hf hf'
  obtain ⟨i, hi, hm⟩ := exists_decodeQuery_of_fits hr hf
  obtain ⟨i', hi', hm'⟩ := exists_decodeQuery_of_fits hr' hf'
  have hii : i = i' := Except.ok.inj (hi.symm.trans hi')
  exact queryMap_mnemonic_injective r hr r' hr' (by rw [← hm, ← hm', hii])

/-- Settles O9: the decoder evaluated on the eight words. -/
theorem handWordsDecode : Obligations.HandWordsDecode := by
  unfold Obligations.HandWordsDecode
  decide

end Sys2Proof
end

section
/-! PROOFS. The laws of the checksum (40_checksum R91). -/

namespace Sys2Proof.Machine

/-- The checksum is the sum in the bytes' own arithmetic, modulo 256. -/
theorem chk8_eq_sum (s : List Byte) : chk8 s = s.sum := by
  induction s with
  | nil => rfl
  | cons b s ih => rw [chk8_cons, ih, List.sum_cons]

theorem chk8_append (s t : List Byte) : chk8 (s ++ t) = chk8 s + chk8 t := by
  rw [chk8_eq_sum, chk8_eq_sum, chk8_eq_sum, List.sum_append]

theorem chk8_perm {s t : List Byte} (h : s.Perm t) : chk8 s = chk8 t := by
  rw [chk8_eq_sum, chk8_eq_sum, h.sum_eq]

/-- Settles O15: bytes add as a commutative monoid. -/
theorem checksumIgnoresOrder : Obligations.ChecksumIgnoresOrder := by
  unfold Obligations.ChecksumIgnoresOrder
  exact ⟨chk8_append, fun _ _ => chk8_perm⟩

/-- Settles O16: what stands around the changed byte cancels. -/
theorem checksumSeesOneChangedByte : Obligations.ChecksumSeesOneChangedByte := by
  unfold Obligations.ChecksumSeesOneChangedByte
  intro pre post a b hab h
  rw [chk8_append, chk8_append, add_right_inj, chk8_cons, chk8_cons, add_left_inj] at h
  exact hab h

end Sys2Proof.Machine
end

section
/-! PROOFS. The RXB step: how far its loop runs and what it reports (41_framesync R100, R101, R105). -/

namespace Sys2Proof.Machine

/-! ### The rows without a candidate -/

/-- Settles O18: the runs of an empty unsynchronized buffer. -/
theorem receiveUnsynchronized : Obligations.ReceiveUnsynchronized := by
  unfold Obligations.ReceiveUnsynchronized
  intro b t s hs he
  rw [exec_rxb]
  split
  next hb =>
    subst hb
    rw [show (0x07 : Byte) = Config.mark0 from rfl, rxRun_mark hs he]
    rfl
  next hb =>
    rw [rxRun_other hs he hb, RxRun.response, ← he]
    rfl

/-- Settles O19: the run that waits. -/
theorem receiveWaitsForNineBytes : Obligations.ReceiveWaitsForNineBytes := by
  unfold Obligations.ReceiveWaitsForNineBytes
  intro b t s hs hlen
  rw [exec_rxb, rxRun_wait hs (Nat.lt_of_succ_lt_succ (by simpa using hlen))]
  rfl

/-! ### The turns of the loop -/

/-- While synchronized with fewer than 9 bytes every turn is the last. -/
theorem rxLoop_of_short {t : Time} {r : RxRun} (hs : r.st.sync = true) (hl : r.st.rxbuf.length < 9) (n : Nat) :
    rxLoop t n r = r := by
  cases n with
  | zero => exact rxLoop_zero t r
  | succ n => exact rxLoop_wait hs hl

/-- Fewer than 9 unsynchronized bytes are scanned once. -/
theorem rxLoop_of_unsynchronized {t : Time} {r : RxRun} (hs : r.st.sync = false) (hl : r.st.rxbuf.length < 9)
    (n : Nat) : rxLoop t (n + 1) r = rxLoop t 1 r := by
  cases hk : scan r.st.rxbuf with
  | none => rw [rxLoop_discard hs hk, rxLoop_discard hs hk]
  | some k =>
    have hshort : (r.st.rxbuf.drop k).length < 9 := by
      rw [List.length_drop]
      omega
    rw [rxLoop_found hs hk, rxLoop_found hs hk, rxLoop_of_short rfl hshort, rxLoop_of_short rfl hshort]

/-- At most 9 synchronized bytes: one candidate, and one scan of what it leaves. -/
theorem rxLoop_of_synchronized {t : Time} {r : RxRun} (hs : r.st.sync = true) (hl : r.st.rxbuf.length ≤ 9)
    (n : Nat) : rxLoop t (n + 2) r = rxLoop t 2 r := by
  obtain hlt | heq := Nat.lt_or_eq_of_le hl
  · rw [rxLoop_of_short hs hlt, rxLoop_of_short hs hlt]
  · have hfull : ¬ r.st.rxbuf.length < 9 := by omega
    cases hc : candidateCause (r.st.rxbuf.take 9) with
    | none =>
      rw [rxLoop_valid hs hfull hc, rxLoop_valid hs hfull hc, rxLoop_of_short (by simpa using hs) (by simp [heq]),
        rxLoop_of_short (by simpa using hs) (by simp [heq])]
    | some c =>
      rw [rxLoop_invalid hs hfull hc, rxLoop_invalid hs hfull hc]
      exact rxLoop_of_unsynchronized rfl (by simp [heq]) n

/-- From a state between two operations the loop stops within two turns. -/
theorem rxLoop_of_bufInv (b : Byte) (t : Time) {s : State} (h : s.BufInv) (n : Nat) :
    rxLoop t (n + 2) ⟨{ s with rxbuf := s.rxbuf ++ [b] }, .none, 0⟩ =
      rxLoop t 2 ⟨{ s with rxbuf := s.rxbuf ++ [b] }, .none, 0⟩ := by
  obtain hs | hs := Bool.eq_false_or_eq_true s.sync
  · exact rxLoop_of_synchronized hs (by simpa using Nat.lt_succ_of_le h.short) n
  · have hl : (s.rxbuf ++ [b]).length < 9 := by simp [h.empty hs]
    rw [rxLoop_of_unsynchronized hs hl, rxLoop_of_unsynchronized hs hl 1]

/-- Settles O21: both runs are the run of two turns. -/
theorem receiveLoopNeedsFourTurns : Obligations.ReceiveLoopNeedsFourTurns := by
  unfold Obligations.ReceiveLoopNeedsFourTurns
  intro b t s n h hn
  obtain ⟨k, rfl⟩ := Nat.exists_eq_add_of_le' (Nat.le_of_add_right_le (k := 2) hn)
  rw [rxRun_eq, rxLoop_of_bufInv b t h, rxLoop_of_bufInv b t h (2 * s.rxbuf.length + 2)]

/-! ### The count of discarded bytes -/

theorem ndisc_rxRun_le (b : Byte) (t : Time) {s : State} (h : s.BufInv) : (rxRun b t s).ndisc ≤ 9 := by
  have hshort := h.short
  obtain ⟨-, -, hr⟩ | ⟨buf, sync, ferr, ev, nd, hr, -, -, -, hcount⟩ := rxRun_cases b t h <;> rw [hr]
  · exact Nat.zero_le 9
  · change nd ≤ 9
    omega

/-- Settles O22: at most 9 bytes are there to be discarded. -/
theorem discardCountIsAtMostNine : Obligations.DiscardCountIsAtMostNine := by
  unfold Obligations.DiscardCountIsAtMostNine
  intro b t s s' ev nd h hx hresp
  rw [exec_rxb] at hx
  cases hx
  cases hresp
  exact ndisc_rxRun_le b (timeInput s t) h

end Sys2Proof.Machine
end

section
/-! PROOFS. What DECODE reads from a frame, and which frames it rejects (42_decode). -/

namespace Sys2Proof.Machine

/-! ### Which frames are rejected -/

theorem exists_decodeFields_ok {v : Variant} {l : Bool} {f : List Byte} (hu : ¬ BadUnit f) (hc : ¬ BadCode v f)
    (ht : ¬ BadType l f) : ∃ d, decodeFields v l f = .ok d := by
  obtain ⟨u, hu⟩ := Option.ne_none_iff_exists'.1 (mt badUnit_iff.2 hu)
  obtain ⟨c, hc⟩ := Option.ne_none_iff_exists'.1 (mt badCode_iff.2 hc)
  simp [decodeFields, hu, hc, mt badType_iff.2 ht]

/-- Settles O24: each frame falls under one row of the order UNIT, ERRCODE, TYPE, and the four answers differ. -/
theorem decodeRejectsFirstBadField : Obligations.DecodeRejectsFirstBadField := by
  unfold Obligations.DecodeRejectsFirstBadField
  intro v l f badUnit badCode badType
  by_cases hu : badUnit
  · simp [decodeFields_of_badUnit hu, hu]
  · by_cases hc : badCode
    · simp [decodeFields_of_badCode hu hc, hu, hc]
    · by_cases ht : badType
      · simp [decodeFields_of_badType hu hc ht, hu, hc, ht]
      · obtain ⟨d, hd⟩ := exists_decodeFields_ok hu hc ht
        simp [hd, hu, hc, ht]

/-! ### What is read -/

/-- `unitOf` reads the code of the unit. -/
theorem code_of_unitOf {x : Byte} {u : PressureUnit} (h : unitOf x = some u) : u.code = x.extractLsb' 4 2 := by
  unfold unitOf at h
  split at h
  case h_4 => cases h
  all_goals
    cases h
    exact BitVec.eq_of_toNat_eq (Eq.symm ‹_›)

theorem code_emisOf (x : Byte) : (emisOf x).code = x.extractLsb' 0 2 := by
  unfold emisOf
  generalize x.extractLsb' 0 2 = c
  revert c
  decide

theorem code_of_errOf {x : Byte} {e : ErrCode} (h : errOf x = some e) : e.code = x.extractLsb' 4 4 := by
  unfold errOf at h
  split at h
  case h_5 => cases h
  all_goals
    cases h
    exact BitVec.eq_of_toNat_eq (Eq.symm ‹_›)

/-- The magnitude is big-endian (30_encoding R64). -/
theorem toNat_magnitudeOf (hi lo : Byte) : (magnitudeOf hi lo).toNat = hi.toNat * 256 + lo.toNat := by
  rw [magnitudeOf, BitVec.toNat_append, ← Nat.shiftLeft_add_eq_or_of_lt lo.isLt, Nat.shiftLeft_eq]

theorem typeTable_eq_itr90 {x : Byte} : typeTable x = .itr90 ↔ x = 10 := by
  unfold typeTable
  split_ifs <;> simp_all

theorem typeTable_eq_itr200 {x : Byte} : typeTable x = .itr200 ↔ x = 12 := by
  unfold typeTable
  split_ifs <;> simp_all

/-- Settles O25, field by field. -/
theorem decodeAssemblesFields : Obligations.DecodeAssemblesFields := by
  unfold Obligations.DecodeAssemblesFields
  intro v l f d hd
  obtain ⟨hunit, herr, hv, -, hmis, hm, hemis, htog, hvb⟩ := decodeFields_ok hd
  refine ⟨code_of_unitOf hunit, by rw [hemis, code_emisOf], htog, by rw [hm, toNat_magnitudeOf], hvb,
    fun h90 => ?_, fun h90 => ?_, by rw [hv, typeTable_eq_itr90], by rw [hv, typeTable_eq_itr200],
    by simp [hmis, hv]⟩
  · obtain ⟨-, hx, hec, hadj⟩ | ⟨hne, -⟩ := errFields_eq_some herr
    · exact ⟨hx, code_of_errOf hec, hadj⟩
    · exact absurd h90 hne
  · obtain ⟨heq, -⟩ | ⟨-, hx, hec, hadj⟩ := errFields_eq_some herr
    · exact absurd heq h90
    · exact ⟨hx, by rw [hec]; rfl, hadj⟩

end Sys2Proof.Machine
end

section
/-! PROOFS. How pressures compare, and the mean between its extremes (42_decode R119, 43_history R139). -/

namespace Sys2Proof.Machine

theorem realPressure_pos (u : PressureUnit) (m : BitVec 16) : 0 < realPressure u m :=
  Real.rpow_pos_of_pos (by norm_num) _

/-- The mean of numbers between two bounds lies between them. -/
theorem sum_div_length_between {ps : List ℝ} {lo hi : ℝ} (hne : ps ≠ []) (h : ∀ p ∈ ps, lo ≤ p ∧ p ≤ hi) :
    lo ≤ ps.sum / ps.length ∧ ps.sum / ps.length ≤ hi := by
  have hlen : (0 : ℝ) < ps.length := mod_cast List.length_pos_iff.2 hne
  rw [le_div_iff₀' hlen, div_le_iff₀' hlen]
  exact ⟨by simpa using List.card_nsmul_le_sum ps lo fun p hp => (h p hp).1,
    by simpa using List.sum_le_card_nsmul ps hi fun p hp => (h p hp).2⟩

/-- Settles O32: the value is the mean of the samples' pressures, of which the least is positive. -/
theorem averageLiesBetweenExtremes : Obligations.AverageLiesBetweenExtremes := by
  unfold Obligations.AverageLiesBetweenExtremes
  intro xs lo hi hne hb
  have hlen : (0 : ℝ) < xs.length := mod_cast List.length_pos_iff.2 hne
  have hsum : 0 < (xs.map fun x => realPressure x.unit x.m).sum :=
    List.sum_pos _ (List.forall_mem_map.2 fun x _ => realPressure_pos x.unit x.m) (by simpa using hne)
  have hmean := sum_div_length_between (by simpa using hne) (List.forall_mem_map.2 hb)
  rw [List.length_map, ← value_pressureMean] at hmean
  refine ⟨?_, hmean⟩
  rw [value_pressureMean]
  exact div_pos hsum hlen

/-- Pressures whose exponents differ by `e` differ by the factor `10 ^ e`. -/
theorem value_pval_eq_mul {u u' : PressureUnit} {m m' : BitVec 16} {e : ℝ}
    (h : (m'.toNat : ℝ) / 4000 - (u'.K : ℝ) = e + ((m.toNat : ℝ) / 4000 - (u.K : ℝ))) :
    (pval u' m').value = (10 : ℝ) ^ e * (pval u m).value := by
  rw [pressureValueIsExact, pressureValueIsExact, realPressure, realPressure, h, Real.rpow_add (by norm_num)]

/-- Settles O35: one step of M adds 1/4000 to the exponent. -/
theorem pressureRisesWithMagnitude : Obligations.PressureRisesWithMagnitude := by
  unfold Obligations.PressureRisesWithMagnitude
  intro u m m' hm
  have hstep : (pval u m').value = (pval u m).value * (10 : ℝ) ^ ((1 : ℝ) / 4000) := by
    rw [mul_comm]
    refine value_pval_eq_mul ?_
    rw [← hm]
    push_cast
    ring
  have hpos : 0 < (pval u m).value := by
    rw [pressureValueIsExact]
    exact realPressure_pos u m
  have hfactor : (1 : ℝ) < (10 : ℝ) ^ ((1 : ℝ) / 4000) := Real.one_lt_rpow (by norm_num) (by norm_num)
  exact ⟨hstep ▸ lt_mul_of_one_lt_right hpos hfactor, hstep⟩

/-- Settles O36: K of Pa is 2 less, and K of Torr 1/8 more, than K of mbar. -/
theorem pressureUnitsRelate : Obligations.PressureUnitsRelate := by
  unfold Obligations.PressureUnitsRelate
  intro m
  constructor
  · rw [value_pval_eq_mul (u := .mbar) (m := m) (e := 2)]
    · norm_num
    · norm_num [PressureUnit.K]
      ring
  · refine value_pval_eq_mul ?_
    norm_num [PressureUnit.K]
    ring

/-! ### The canonical form -/

theorem canonical_nil : (⟨[]⟩ : ExactNum).canonical := ⟨List.Pairwise.nil, List.forall_mem_nil _⟩

theorem canonical_cons {r : Nat} {q : Rat} {ts : List (Nat × Rat)} :
    (⟨(r, q) :: ts⟩ : ExactNum).canonical ↔
      r < 4000 ∧ q ≠ 0 ∧ (∀ t ∈ ts, r < t.1) ∧ (⟨ts⟩ : ExactNum).canonical := by
  simp only [ExactNum.canonical, List.map_cons, List.pairwise_cons, List.forall_mem_map, List.forall_mem_cons]
  tauto

/-- A bound below `r` and below every term's exponent stays below them all. -/
theorem lt_of_mem_addTerm {k r : Nat} {q : Rat} {ts : List (Nat × Rat)} (hr : k < r) (h : ∀ t ∈ ts, k < t.1) :
    ∀ t ∈ addTerm r q ts, k < t.1 := by
  induction ts with
  | nil =>
    rw [addTerm]
    split_ifs
    · exact h
    · exact List.forall_mem_singleton.2 hr
  | cons t ts ih =>
    have htail := (List.forall_mem_cons.1 h).2
    rw [addTerm]
    split_ifs
    · exact h
    · exact List.forall_mem_cons.2 ⟨hr, h⟩
    · exact htail
    · exact List.forall_mem_cons.2 ⟨hr, htail⟩
    · exact List.forall_mem_cons.2 ⟨(List.forall_mem_cons.1 h).1, ih htail⟩

theorem canonical_addTerm {r : Nat} (q : Rat) {ts : List (Nat × Rat)} (hr : r < 4000)
    (h : (⟨ts⟩ : ExactNum).canonical) : (⟨addTerm r q ts⟩ : ExactNum).canonical := by
  induction ts with
  | nil =>
    rw [addTerm]
    split_ifs with hq
    · exact h
    · exact canonical_cons.2 ⟨hr, hq, List.forall_mem_nil _, h⟩
  | cons t ts ih =>
    obtain ⟨r', q'⟩ := t
    obtain ⟨hr', hq', hbelow, htail⟩ := canonical_cons.1 h
    rw [addTerm]
    split_ifs with hlt hq heq hsum
    · exact h
    · exact canonical_cons.2
        ⟨hr, hq, List.forall_mem_cons.2 ⟨hlt, fun t ht => hlt.trans (hbelow t ht)⟩, h⟩
    · exact htail
    · exact canonical_cons.2 ⟨hr, hsum, heq ▸ hbelow, htail⟩
    · exact canonical_cons.2 ⟨hr', hq', lt_of_mem_addTerm (by omega) hbelow, ih htail⟩

/-- A pressure is one term, so adding it is `addTerm`. -/
theorem canonical_add_pval {a : ExactNum} (h : a.canonical) (u : PressureUnit) (m : BitVec 16) :
    (a.add (pval u m)).canonical := by
  have hrem : (((m.toNat : Int) - u.offset) % Config.pDiv).toNat < 4000 := by
    rw [Config.pDiv]
    omega
  exact canonical_addTerm _ hrem h

theorem canonical_pressureSum (xs : List Sample) : (pressureSum xs).canonical :=
  List.foldlRecOn xs _ canonical_nil fun _ h x _ => canonical_add_pval h x.unit x.m

theorem canonical_divNat {a : ExactNum} {k : Nat} (hk : k ≠ 0) (h : a.canonical) : (a.divNat k).canonical := by
  obtain ⟨hrising, hterms⟩ := h
  have hexp : (a.divNat k).terms.map Prod.fst = a.terms.map Prod.fst := by simp [ExactNum.divNat]
  refine ⟨hexp ▸ hrising, List.forall_mem_map.2 fun t ht => ?_⟩
  obtain ⟨hlt, hq⟩ := hterms t ht
  exact ⟨hlt, div_ne_zero hq (Nat.cast_ne_zero.2 hk)⟩

/-- Settles O37: the sum is canonical term by term, and dividing by a count that is not 0 keeps every term; the
empty sum has no term to divide. -/
theorem exactMeansAreCanonical : Obligations.ExactMeansAreCanonical := by
  unfold Obligations.ExactMeansAreCanonical
  intro xs
  cases xs with
  | nil => exact canonical_nil
  | cons x xs => exact canonical_divNat (Nat.succ_ne_zero _) (canonical_pressureSum _)

end Sys2Proof.Machine
end

section
/-! PROOFS. The query operations of a caller: what they read, repeated or not (10_state R30, 20_memory R44). -/

namespace Sys2Proof.Machine

/-! ### A query word writes no state -/

/-- A query word asks for CLR, RST or a reading operation. -/
theorem onlyReads_of_decodeQuery {w : QueryWord} {i : Instr} (h : decodeQuery w = .ok i) (hclr : i ≠ .clr)
    (hrst : i ≠ .rst) : onlyReads i = true := by
  have henc := encode_of_decodeQuery h
  cases i with
  | rxb | frame => cases henc
  | clr => exact absurd rfl hclr
  | rst => exact absurd rfl hrst
  | avg | snap | var | ver | stat | enc | cmdframe => rfl

/-- Settles O42: an operation that only reads gives one response; so does IllegalOperation. -/
theorem callersOnlyRead : Obligations.CallersOnlyRead := by
  unfold Obligations.CallersOnlyRead
  intro s s' w rest hp hclr hrst hstep
  rw [step_accept hp] at hstep
  cases hd : decode (.query w) with
  | ok i =>
    rw [hd] at hstep hclr hrst
    have hi := onlyReads_of_decodeQuery hd (fun h => hclr (congrArg _ h)) (fun h => hrst (congrArg _ h))
    obtain ⟨r, hs', -⟩ := exec_onlyReads_next hi hstep
    exact ⟨r, hs'⟩
  | error e =>
    rw [hd] at hstep
    cases (refuseWord_of_decodeQuery hd _).symm.trans hstep
    exact ⟨_, rfl⟩

/-! ### Responses are not read -/

theorem readWindow_respond (rs : List Response) (s : State) (i k : Nat) :
    readWindow (respond rs s) i k = readWindow s i k := by
  induction k generalizing i with
  | zero => rfl
  | succ k ih => simp only [readWindow, ih]; rfl

/-- An operation that only reads answers the same whatever was answered before. -/
theorem exec_respond {i : Instr} (hi : onlyReads i = true) (rs : List Response) (s : State) :
    exec i (respond rs s) = exec i s := by
  cases i with
  | rxb | clr | rst | frame => cases hi
  | avg n =>
    have hsize : windowSize n (respond rs s) = windowSize n s := rfl
    simp only [exec, execAvg, hsize, readWindow_respond]
    rfl
  | snap | var | ver | stat | enc | cmdframe => rfl

theorem exec_repeat {i : Instr} {s s' : State} (hi : onlyReads i = true) (h : exec i s = .next s') :
    exec i s' = .next s' := by
  obtain ⟨r, hs', -⟩ := exec_onlyReads_next hi h
  calc exec i s' = exec i (respond [r] s) := by rw [hs', respond]
    _ = .next s' := (exec_respond hi [r] s).trans h

/-- Settles O46: CLR clears what is clear, and the others only read. -/
theorem queriesRepeat : Obligations.QueriesRepeat := by
  unfold Obligations.QueriesRepeat
  intro i s s' hi h
  by_cases hclr : i = .clr
  · subst hclr
    rw [exec_clr] at h
    cases h
    exact exec_clr _
  · refine exec_repeat ?_ h
    obtain hmem | ⟨n, rfl⟩ | ⟨l, p, q, r, rfl⟩ := hi
    · have hrest : ∀ j ∈ [Instr.snap, .var, .ver, .stat], onlyReads j = true := by decide
      exact hrest i ((List.mem_cons.1 hmem).resolve_left hclr)
    · rfl
    · rfl

/-- Settles O39: VAR answers the two registers. -/
theorem variantQuery : Obligations.VariantQuery := by
  unfold Obligations.VariantQuery
  exact fun _ => rfl

/-! ### AVG's window, and its stop -/

/-- The window cannot be read exactly when one of its samples is missing. -/
theorem readWindow_eq_none_iff {s : State} {k : Nat} (hk : k ≤ s.hcnt) :
    readWindow s 0 k = none ↔ none ∈ (histSeq s).drop (s.hcnt - k) := by
  constructor
  · intro hnone
    by_contra hfull
    obtain ⟨xs, hxs⟩ : (histSeq s).drop (s.hcnt - k) ∈ Set.range (List.map some) := by
      rw [Set.range_list_map]
      exact fun o ho => (Option.ne_none_iff_exists.1 (ne_of_mem_of_not_mem ho hfull)).imp fun _ h => h
    rw [readWindow_of_histSeq hk hxs.symm] at hnone
    cases hnone
  · intro hmem
    obtain ⟨j, hj, he⟩ := List.getElem_of_mem hmem
    rw [List.length_drop, histSeq_length] at hj
    rw [List.getElem_drop, histSeq_getElem] at he
    by_contra hsome
    obtain ⟨xs, hxs⟩ := Option.ne_none_iff_exists'.1 hsome
    obtain ⟨hlen, hread⟩ := readWindow_eq_some.1 hxs
    have hcell := hread (k - 1 - j) (by omega)
    rw [newestCell_eq_oldestCell s _ (by omega), show s.hcnt - 1 - (0 + (k - 1 - j)) = s.hcnt - k + j by omega,
      he] at hcell
    cases hcell

theorem exec_avg_eq_fault_iff (n : BitVec 16) (s : State) :
    exec (.avg n) s = .fault .historyCellUnwritten ↔ readWindow s 0 (windowSize n s) = none := by
  rw [exec, execAvg]
  split
  next hzero => simp [hzero, readWindow]
  next =>
    split
    next h => simp [h]
    next h => simp [h]

/-- Settles O31: AVG stops when its window cannot be read. -/
theorem averageFaultsOnUnwrittenCell : Obligations.AverageFaultsOnUnwrittenCell := by
  unfold Obligations.AverageFaultsOnUnwrittenCell
  intro n s
  exact (exec_avg_eq_fault_iff n s).trans (readWindow_eq_none_iff (min_le_right _ _))

/-! ### A finite NUM -/

/-- Settles O54: the exact numbers are not looked at. -/
theorem finiteNumbersAreConfigurationFunctions : Obligations.FiniteNumbersAreConfigurationFunctions := by
  unfold Obligations.FiniteNumbersAreConfigurationFunctions
  intro s hnum
  refine ⟨fun h => ⟨snapshot s, exec_snap_of_rvalid h, by rw [snapshot, hnum]; rfl⟩, fun n h hpos => ?_⟩
  obtain ⟨ys, hys⟩ := exists_samples_of_ringInv h
  have hxs : (histSeq s).drop (s.hcnt - min n.toNat s.hcnt) =
      (ys.drop (s.hcnt - min n.toNat s.hcnt)).map some := by rw [hys, List.map_drop]
  refine ⟨_, _, hxs, toNat_ofNat_window n s.hcnt, ?_⟩
  rw [exec_avg_of_histSeq hpos hxs, hnum]
  rfl

end Sys2Proof.Machine
end

section
/-! PROOFS. Which words are accepted, and which are refused by name (60_exceptions R177; logs 8, 9). -/

namespace Sys2Proof.Machine

/-! ### The step -/

theorem step_of_decode_ok {s : State} {p : PortWord} {rest : List PortWord} {i : Instr} (hp : s.pending = p :: rest)
    (hd : decode p = .ok i) : step s = exec i { s with pending := rest } := by
  rw [step_accept hp, hd]

/-- Settles O3: the step of an offered word, with its decoding put in. -/
theorem stepRunsDecodedInstruction : Obligations.StepRunsDecodedInstruction := by
  unfold Obligations.StepRunsDecodedInstruction
  exact fun _ _ _ _ => step_of_decode_ok

/-- Settles O4: nothing is accepted. -/
theorem stepIdlesBetweenOperations : Obligations.StepIdlesBetweenOperations := by
  unfold Obligations.StepIdlesBetweenOperations
  exact fun _ => step_idle

theorem step_of_decode_error {s : State} {p : PortWord} {rest : List PortWord} {e : Reject}
    (hp : s.pending = p :: rest) (hd : decode p = .error e) :
    step s = refuseWord e { s with pending := rest } := by
  rw [step_accept hp, hd]

/-! ### The images of the two wire formats -/

theorem markers_eq : Config.mark0 ++ Config.mark1 = (0x0705 : BitVec 16) := rfl

theorem decode_wireIn_of_markers {f : BitVec 72} (t : Time) (h : f.extractLsb' 56 16 = 0x0705) :
    ∃ st eb hi lo vb tb c, decode (.wireIn f t) = .ok (.frame st eb hi lo vb tb c t) := by
  rw [decode, decodeWireIn, markers_eq, if_pos h]
  exact ⟨_, _, _, _, _, _, _, rfl⟩

theorem decode_wireIn_of_no_markers {f : BitVec 72} (t : Time) (h : f.extractLsb' 56 16 ≠ 0x0705) :
    decode (.wireIn f t) = .error .notTelemetryFrame := by
  rw [decode, decodeWireIn, markers_eq, if_neg h]

theorem decode_wireOut_of_marker {c : BitVec 40} (h : c.extractLsb' 32 8 = 0x03) :
    decode (.wireOut c) = .ok (.cmdframe (c.extractLsb' 24 8) (c.extractLsb' 16 8) (c.extractLsb' 8 8)
      (c.extractLsb' 0 8)) := by
  rw [decode, decodeWireOut, Config.cmdMark, if_pos h]

theorem decode_wireOut_of_no_marker {c : BitVec 40} (h : c.extractLsb' 32 8 ≠ 0x03) :
    decode (.wireOut c) = .error .notCommandFrame := by
  rw [decode, decodeWireOut, Config.cmdMark, if_neg h]

/-- Settles O8: without its markers an image is not decoded, and refusing it stops the step. -/
theorem otherImagesAreRefused : Obligations.OtherImagesAreRefused := by
  unfold Obligations.OtherImagesAreRefused
  intro s rest
  refine ⟨fun f t hp hm => ?_, fun c hp hm => ?_⟩
  · rw [step_of_decode_error hp (decode_wireIn_of_no_markers t hm), refuseWord]
  · rw [step_of_decode_error hp (decode_wireOut_of_no_marker hm), refuseWord]

/-! ### The command frame -/

theorem chk8_payload (p0 p1 p2 : Byte) : chk8 [p0, p1, p2] = p0 + p1 + p2 := by
  rw [chk8_cons, chk8_cons, chk8_cons, chk8_nil, add_zero, add_assoc]

theorem exec_cmdframe_of_checksum {p0 p1 p2 c : Byte} (h : c = p0 + p1 + p2) (s : State) :
    exec (.cmdframe p0 p1 p2 c) s = .next { s with resp := [.enc (commandFrame p0 p1 p2)] } := by
  rw [exec, execCmdframe, chk8_payload, if_pos h]
  rfl

theorem exec_cmdframe_of_not_checksum {p0 p1 p2 c : Byte} (h : c ≠ p0 + p1 + p2) (s : State) :
    exec (.cmdframe p0 p1 p2 c) s = .refused .notCommandFrame := by
  rw [exec, execCmdframe, chk8_payload, if_neg h]

/-- Settles O44: the right last byte is the one ENC appends. -/
theorem commandFrameIsProducedByEnc : Obligations.CommandFrameIsProducedByEnc := by
  unfold Obligations.CommandFrameIsProducedByEnc
  intro p0 p1 p2 c s
  refine ⟨fun h => ⟨_, exec_cmdframe_of_checksum h s, ?_, exec_enc_of_len_eq p0 p1 p2 s⟩,
    fun h => exec_cmdframe_of_not_checksum h s⟩
  rw [commandFrame_eq, h]

/-! ### No operation stops the block -/

theorem exec_avg_accepted (n : BitVec 16) {s : State} (h : s.RingInv) : ∃ s', exec (.avg n) s = .next s' := by
  obtain hzero | hpos := Nat.eq_zero_or_pos (min n.toNat s.hcnt)
  · exact ⟨_, exec_avg_of_window_empty hzero⟩
  · obtain ⟨ys, hys⟩ := exists_samples_of_ringInv h
    exact ⟨_, exec_avg_of_histSeq hpos (by rw [hys, List.map_drop])⟩

/-- Only a command frame with a wrong checksum is refused. -/
theorem exec_accepted {i : Instr} {s : State} (h : s.RingInv)
    (hchk : ∀ p0 p1 p2 c, i = .cmdframe p0 p1 p2 c → c = p0 + p1 + p2) : ∃ s', exec i s = .next s' := by
  cases i with
  | avg n => exact exec_avg_accepted n h
  | snap =>
    obtain hr | hr := Bool.eq_false_or_eq_true s.rvalid
    · exact ⟨_, exec_snap_of_rvalid hr⟩
    · exact ⟨_, exec_snap_of_not_rvalid hr⟩
  | enc len p0 p1 p2 =>
    by_cases hlen : len = 3
    · exact ⟨_, hlen ▸ exec_enc_of_len_eq p0 p1 p2 s⟩
    · exact ⟨_, exec_enc_of_len_ne hlen p0 p1 p2 s⟩
  | cmdframe p0 p1 p2 c => exact ⟨_, exec_cmdframe_of_checksum (hchk p0 p1 p2 c rfl) s⟩
  | rxb | clr | var | ver | stat | rst | frame => exact ⟨_, rfl⟩

/-- Settles O7: a word of these decodes to an operation that is accepted, or it is an illegal query word. -/
theorem everyOperationIsAccepted : Obligations.EveryOperationIsAccepted := by
  unfold Obligations.EveryOperationIsAccepted
  intro s p rest h hp hin hout
  have accepted {i : Instr} (hd : decode p = .ok i)
      (hchk : ∀ p0 p1 p2 c, i = .cmdframe p0 p1 p2 c → c = p0 + p1 + p2) : ∃ s', step s = .next s' := by
    rw [step_of_decode_ok hp hd]
    exact exec_accepted (inv_ports h rest h.responses).ring hchk
  cases p with
  | rx b t => exact accepted rfl nofun
  | resetInput => exact accepted rfl nofun
  | query w =>
    cases hd : decodeQuery w with
    | ok i =>
      refine accepted hd ?_
      rintro p0 p1 p2 c rfl
      cases encode_of_decodeQuery hd
    | error e => exact ⟨_, (step_of_decode_error hp hd).trans (refuseWord_of_decodeQuery hd _)⟩
  | wireIn f t =>
    obtain ⟨st, eb, hi, lo, vb, tb, c, hd⟩ := decode_wireIn_of_markers t (hin f t rfl)
    exact accepted hd nofun
  | wireOut c =>
    obtain ⟨hm, hsum⟩ := hout c rfl
    refine accepted (decode_wireOut_of_marker hm) ?_
    rintro _ _ _ _ ⟨⟩
    exact hsum

end Sys2Proof.Machine
end

section
/-! PROOFS. One history sample per reading, and the width of the TIME input (42_decode R125; log 4). -/

namespace Sys2Proof.Machine

theorem histSeq_commit (d : Decoded) (t : Time) {s : State} (h : s.RingInv) :
    histSeq (commit d t s) =
      (if s.hcnt = s.histCap then (histSeq s).drop 1 else histSeq s) ++ [some ⟨t, d.unit, d.m⟩] := by
  have happend := (appendOnSequenceAndArray ⟨t, d.unit, d.m⟩ _ (ringInv_congr h rfl rfl rfl rfl)).1
  rw [histSeq_length] at happend
  exact happend

/-- Settles O49: a reading is a commit, which appends its sample; no other outcome of an RXB step touches the
ring. -/
theorem oneSamplePerReading : Obligations.OneSamplePerReading := by
  unfold Obligations.OneSamplePerReading
  intro b t s s' ev nd hbuf hring hx hresp
  rw [exec_rxb] at hx
  cases hx
  cases hresp
  obtain ⟨-, -, hr⟩ | ⟨buf, sync, ferr, ev, nd, hr, hev, -⟩ := rxRun_cases b (timeInput s t) hbuf
  · rw [hr]
    obtain ⟨e, -, hd⟩ | ⟨d, -, hd⟩ :=
      decodeFrame_cases (s.rxbuf ++ [b]) (timeInput s t) { s with rxbuf := [] } <;> rw [hd]
    · exact ⟨nofun, fun _ => rfl⟩
    · exact ⟨fun _ => histSeq_commit d _ (ringInv_congr hring rfl rfl rfl rfl), fun hno => absurd rfl (hno d.mis)⟩
  · rw [hr]
    obtain ⟨rfl, -⟩ | ⟨c, rfl, -⟩ := hev <;> exact ⟨nofun, fun _ => rfl⟩

theorem timeInput_mod (s : State) (t : Time) : timeInput s (t % 2 ^ s.wTs) = timeInput s t := Nat.mod_mod ..

/-- Settles O55: both operations look at the TIME value through `timeInput`. -/
theorem timeInputHasItsWidth : Obligations.TimeInputHasItsWidth := by
  unfold Obligations.TimeInputHasItsWidth
  intro t s
  refine ⟨fun b => ?_, fun st eb hi lo vb tb c => ?_, Nat.mod_eq_of_lt⟩
  · rw [exec_rxb, exec_rxb, timeInput_mod]
  · rw [exec_frame, exec_frame, timeInput_mod]

end Sys2Proof.Machine
end

section
/-! PROOFS. The telemetry frame received whole is its nine RXB steps (30_encoding R61, R85; log 8). -/

namespace Sys2Proof.Machine

/-! ### The ports are not read while bytes are received -/

/-- Other words offered, and other responses given before. -/
def withPorts (pend : List PortWord) (rs : List Response) (s : State) : State := { s with pending := pend, resp := rs }

theorem decodeFrame_withPorts (f : List Byte) (t : Time) (s : State) (pend : List PortWord) (rs : List Response) :
    decodeFrame f t (withPorts pend rs s) = (withPorts pend rs (decodeFrame f t s).1, (decodeFrame f t s).2) := by
  simp only [decodeFrame, withPorts]
  split <;> rfl

/-- The same for an RXB step under way. -/
def RxRun.withPorts (pend : List PortWord) (rs : List Response) (r : RxRun) : RxRun :=
  ⟨Machine.withPorts pend rs r.st, r.ev, r.ndisc⟩

theorem rxLoop_withPorts (pend : List PortWord) (rs : List Response) (t : Time) (n : Nat) (r : RxRun) :
    rxLoop t n (r.withPorts pend rs) = (rxLoop t n r).withPorts pend rs := by
  induction n generalizing r with
  | zero => rfl
  | succ n ih =>
    obtain ⟨s, ev, nd⟩ := r
    cases hs : s.sync with
    | false =>
      cases hk : scan s.rxbuf with
      | none =>
        rw [rxLoop_discard (r := ⟨s, ev, nd⟩) hs hk, rxLoop_discard (r := RxRun.withPorts pend rs ⟨s, ev, nd⟩) hs hk]
        rfl
      | some k =>
        rw [rxLoop_found (r := ⟨s, ev, nd⟩) hs hk, rxLoop_found (r := RxRun.withPorts pend rs ⟨s, ev, nd⟩) hs hk]
        exact ih ⟨{ s with rxbuf := s.rxbuf.drop k, sync := true }, ev, nd + k⟩
    | true =>
      by_cases hl : s.rxbuf.length < 9
      · rw [rxLoop_wait (r := ⟨s, ev, nd⟩) hs hl, rxLoop_wait (r := RxRun.withPorts pend rs ⟨s, ev, nd⟩) hs hl]
      · cases hc : candidateCause (s.rxbuf.take 9) with
        | none =>
          have hd := decodeFrame_withPorts (s.rxbuf.take 9) t { s with rxbuf := s.rxbuf.drop 9 } pend rs
          rw [rxLoop_valid (r := ⟨s, ev, nd⟩) hs hl hc,
            rxLoop_valid (r := RxRun.withPorts pend rs ⟨s, ev, nd⟩) hs hl hc, ← ih]
          exact congrArg (rxLoop t n) ((RxRun.mk.injEq ..).mpr ⟨congrArg Prod.fst hd, (congrArg Prod.snd hd :), rfl⟩)
        | some c =>
          rw [rxLoop_invalid (r := ⟨s, ev, nd⟩) hs hl hc,
            rxLoop_invalid (r := RxRun.withPorts pend rs ⟨s, ev, nd⟩) hs hl hc]
          exact ih ⟨takeException (.framing c) s, .framing c, nd + 1⟩

theorem rxRun_withPorts (b : Byte) (t : Time) (s : State) (pend : List PortWord) (rs : List Response) :
    rxRun b t (withPorts pend rs s) = (rxRun b t s).withPorts pend rs :=
  rxLoop_withPorts pend rs t _ ⟨{ s with rxbuf := s.rxbuf ++ [b] }, .none, 0⟩

theorem rxChunk_withPorts (t : Time) (bs : List Byte) (s : State) (pend : List PortWord) (rs : List Response) :
    rxChunk t bs (withPorts pend rs s) = (withPorts pend rs (rxChunk t bs s).1, (rxChunk t bs s).2) := by
  induction bs generalizing s with
  | nil => rfl
  | cons b bs ih => simp only [rxChunk, rxRun_withPorts, RxRun.withPorts, RxRun.response, ih]

/-- Bytes received one RXB each leave, but for the records, what the chunk of them leaves. -/
theorem receiveAll_eq (t : Time) (bs : List Byte) (s : State) :
    ∃ rs, receiveAll t bs s = (withPorts s.pending rs (rxChunk (timeInput s t) bs s).1,
      (rxChunk (timeInput s t) bs s).2) := by
  induction bs generalizing s with
  | nil => exact ⟨s.resp, rfl⟩
  | cons b bs ih =>
    obtain ⟨rs, hrs⟩ := ih (stateAfter (.rxb b t) s)
    refine ⟨rs, ?_⟩
    have hst : stateAfter (.rxb b t) s =
        withPorts s.pending [(rxRun b (timeInput s t) s).response] (rxRun b (timeInput s t) s).st := by
      rw [stateAfter_rxb, withPorts, ← rxRun_pending b (timeInput s t) s, respond]
    have ht : timeInput (stateAfter (.rxb b t) s) t = timeInput s t := timeInput_congr (by simp [stateAfter_rxb]) t
    rw [ht, hst, rxChunk_withPorts] at hrs
    simp only [receiveAll, rxChunk, hst, hrs]
    rfl

/-- Settles O50: the nine steps leave the chunk's state and give its responses. -/
theorem frameIsNineReceives : Obligations.FrameIsNineReceives := by
  unfold Obligations.FrameIsNineReceives
  intro st eb hi lo vb tb c t s
  obtain ⟨rs, hrs⟩ := receiveAll_eq t [0x07, 0x05, st, eb, hi, lo, vb, tb, c] s
  obtain ⟨-, -, -, hp⟩ := rxChunk_keeps (timeInput s t) [0x07, 0x05, st, eb, hi, lo, vb, tb, c] s
  rw [hrs, withPorts, ← hp]
  exact exec_frame st eb hi lo vb tb c t s

/-! ### The expansion of RXFRAME, offered word by word -/

theorem run_succ {s s' : State} (h : step s = .next s') (k : Nat) :
    Host.Core.run Sys2Proof.core (k + 1) s = Host.Core.run Sys2Proof.core k s' := by
  have hcore : Sys2Proof.core.step s = .next s' := h
  simp only [Host.Core.run, hcore]

theorem timeInput_withPorts (pend : List PortWord) (rs : List Response) (s : State) (t : Time) :
    timeInput (withPorts pend rs s) t = timeInput s t := rfl

theorem respond_withPorts (pend : List PortWord) (rs rs' : List Response) (s : State) :
    respond rs' (withPorts pend rs s) = withPorts pend rs' s := rfl

theorem exec_rxb_withPorts (b : Byte) (t : Time) (s : State) (pend : List PortWord) (rs : List Response) :
    exec (.rxb b t) (withPorts pend rs s) =
      .next (withPorts pend [(rxRun b (timeInput s t) s).response] (rxRun b (timeInput s t) s).st) := by
  rw [exec_rxb, timeInput_withPorts, rxRun_withPorts, RxRun.withPorts, respond_withPorts]
  rfl

theorem exec_frame_withPorts (st eb hi lo vb tb c : Byte) (t : Time) (s : State) (pend : List PortWord)
    (rs : List Response) :
    exec (.frame st eb hi lo vb tb c t) (withPorts pend rs s) =
      .next (withPorts pend
        (rxChunk (timeInput s t) [Config.mark0, Config.mark1, st, eb, hi, lo, vb, tb, c] s).2
        (rxChunk (timeInput s t) [Config.mark0, Config.mark1, st, eb, hi, lo, vb, tb, c] s).1) := by
  rw [exec_frame, timeInput_withPorts, rxChunk_withPorts, respond_withPorts]

/-- Receive words performed one step each leave, but for the records, what the chunk of their bytes leaves; the
last record is the chunk's last. -/
theorem run_rx_words (t : Time) (bs : List Byte) (rest : List PortWord) (s : State)
    (hp : s.pending = bs.map (PortWord.rx · t) ++ rest) :
    ∃ rs, Host.Core.run Sys2Proof.core bs.length s =
        .next (withPorts rest rs (rxChunk (timeInput s t) bs s).1) ∧
      rs.getLast? = (s.resp ++ (rxChunk (timeInput s t) bs s).2).getLast? := by
  induction bs generalizing s with
  | nil =>
    refine ⟨s.resp, ?_, by simp [rxChunk]⟩
    have hs : withPorts rest s.resp s = s := by rw [withPorts, ← show s.pending = rest from hp]
    rw [rxChunk, hs]
    rfl
  | cons b bs ih =>
    have hstep := (step_of_decode_ok hp rfl).trans (exec_rxb_withPorts b t s _ s.resp)
    obtain ⟨rs, hrun, hlast⟩ := ih (withPorts (bs.map (PortWord.rx · t) ++ rest)
      [(rxRun b (timeInput s t) s).response] (rxRun b (timeInput s t) s).st) rfl
    rw [timeInput_withPorts, timeInput_congr (rxRun_wTs ..), rxChunk_withPorts] at hrun hlast
    refine ⟨rs, (run_succ hstep bs.length).trans hrun, hlast.trans ?_⟩
    simp [rxChunk, withPorts, List.getLast?_append, List.getLast?_cons]

/-- Settles O52: both leave the chunk of the nine bytes. -/
theorem rxFrameExpansionAgrees : Obligations.RxFrameExpansionAgrees := by
  unfold Obligations.RxFrameExpansionAgrees
  intro st eb hi lo vb tb t s rest hp
  obtain ⟨rs, hrun, hlast⟩ := run_rx_words t
    [Config.mark0, Config.mark1, st, eb, hi, lo, vb, tb, chk8 [Config.mark1, st, eb, hi, lo, vb, tb]] rest s hp
  refine ⟨_, _, hrun, exec_frame_withPorts _ _ _ _ _ _ _ t s rest s.resp, rfl, ?_⟩
  exact (hlast.trans (List.getLast?_append_of_ne_nil _ (List.cons_ne_nil _ _))).symm

/-! ### A valid frame received into an empty buffer -/

/-- DECODE does not look at the synchronizer. -/
theorem decodeFrame_with_sync (f : List Byte) (t : Time) (s : State) (sync : Bool) :
    decodeFrame f t { s with sync := sync } =
      ({ (decodeFrame f t s).1 with sync := sync }, (decodeFrame f t s).2) := by
  simp only [decodeFrame]
  split <;> rfl

theorem rxRun_mark_of_empty (t : Time) {s : State} (he : s.rxbuf = []) :
    rxRun Config.mark0 t s = ⟨{ s with rxbuf := [Config.mark0], sync := true }, .none, 0⟩ := by
  obtain hs | hs := Bool.eq_false_or_eq_true s.sync
  · rw [rxRun_wait hs (by simp [he]), he, List.nil_append, ← hs]
  · exact rxRun_mark hs he

/-- While synchronized, bytes that leave at most 8 buffered only wait. -/
theorem rxChunk_wait (t : Time) {bs : List Byte} {s : State} (hs : s.sync = true)
    (hl : s.rxbuf.length + bs.length ≤ 8) :
    rxChunk t bs s = ({ s with rxbuf := s.rxbuf ++ bs }, List.replicate bs.length (.rx .none 0)) := by
  induction bs generalizing s with
  | nil => simp [rxChunk]
  | cons b bs ih =>
    rw [List.length_cons] at hl
    have hrest := ih (s := { s with rxbuf := s.rxbuf ++ [b] }) hs
      (by rw [List.length_append, List.length_singleton]; omega)
    simp only [rxChunk, rxRun_wait (t := t) hs (by omega : s.rxbuf.length < 8), hrest]
    simp [RxRun.response, List.replicate_succ]

theorem rxChunk_concat (t : Time) (bs : List Byte) (b : Byte) (s : State) :
    rxChunk t (bs ++ [b]) s =
      ((rxRun b t (rxChunk t bs s).1).st, (rxChunk t bs s).2 ++ [(rxRun b t (rxChunk t bs s).1).response]) := by
  induction bs generalizing s with
  | nil => rfl
  | cons a bs ih => simp only [List.cons_append, rxChunk, ih]

/-- The first byte of a valid frame synchronizes, seven wait, and the last hands the frame to DECODE. -/
theorem rxChunk_valid (t : Time) {g : List Byte} {b : Byte} {s : State} (he : s.rxbuf = []) (hg : g.length = 7)
    (hv : validFrame (Config.mark0 :: g ++ [b]) = true) :
    rxChunk t (Config.mark0 :: g ++ [b]) s =
      ({ (decodeFrame (Config.mark0 :: g ++ [b]) t s).1 with sync := true },
        List.replicate 8 (.rx .none 0) ++ [.rx (decodeFrame (Config.mark0 :: g ++ [b]) t s).2 0]) := by
  have hfirst : rxChunk t (Config.mark0 :: g) s =
      ({ s with rxbuf := Config.mark0 :: g, sync := true }, List.replicate 8 (.rx .none 0)) := by
    rw [rxChunk, rxRun_mark_of_empty t he, rxChunk_wait t rfl (by simp [hg]), hg]
    rfl
  have hlast : rxRun b t { s with rxbuf := Config.mark0 :: g, sync := true } =
      ⟨{ (decodeFrame (Config.mark0 :: g ++ [b]) t s).1 with sync := true },
        (decodeFrame (Config.mark0 :: g ++ [b]) t s).2, 0⟩ := by
    rw [rxRun_valid rfl (by simp [hg]) (candidateCause_of_valid hv)]
    simp only [← he, decodeFrame_with_sync]
  rw [rxChunk_concat, hfirst]
  simp only [hlast, RxRun.response]

/-- The checksum field of a telemetry frame (30_encoding R67). -/
theorem validFrame_of_checksum {st eb hi lo vb tb c : Byte} (h : c = 0x05 + st + eb + hi + lo + vb + tb) :
    validFrame [0x07, 0x05, st, eb, hi, lo, vb, tb, c] = true := by
  simp [validFrame, byteAt, summed, h, add_assoc]

/-- Settles O51: the nine steps are those of `rxChunk_valid`. -/
theorem frameIsDecoded : Obligations.FrameIsDecoded := by
  unfold Obligations.FrameIsDecoded
  intro st eb hi lo vb tb c t s he hc
  have hchunk : rxChunk (timeInput s t) [Config.mark0, Config.mark1, st, eb, hi, lo, vb, tb, c] s = _ :=
    rxChunk_valid (timeInput s t) (g := [0x05, st, eb, hi, lo, vb, tb]) he rfl (validFrame_of_checksum hc)
  refine ⟨_, _, exec_frame st eb hi lo vb tb c t s, ?_, rfl⟩
  rw [hchunk]
  rfl

end Sys2Proof.Machine
end
